-- ==== Sys2Proof/Word.lean ====
section
/-! DEFINITION. The word types of the engine (00_scope.md R6, R8; 30_encoding.md R90). -/

namespace Sys2Proof

/-- A byte of message memory (20_memory.md R61). -/
abbrev Byte := BitVec 8

/-- A 32-bit word: every register, hash, schedule and working word (00_scope.md R6, WORD). -/
abbrev Word := BitVec 32

/-- A 64-bit value: SRC, LEN, BITLEN (10_state.md R20). -/
abbrev Dword := BitVec 64

/-- A host transaction word (30_encoding.md R91). -/
abbrev Htw := BitVec 40

/-- A micro-operation word (30_encoding.md R100). -/
abbrev Uop := BitVec 12

end Sys2Proof
end

