-- ==== Sys2Proof/Syntax.lean ====
section
/-! DEFINITION. The instructions: one constructor per row of spec/opcode_table.json, and the two
levels of words they are read from (30_encoding.md R90, R91, R100). -/

namespace Sys2Proof

/-- Host transactions and micro-operations. `slot` is a WIDX, `n` the number of a DIGEST register,
`v` the DATA of a write, `ign` the ignored bits 31:4 of a CTRL write, `cmd` its CMD field, and `t`
the T field of a micro-operation. The DATA of a read is no operand: the engine ignores it (R91). -/
inductive Instr where
  -- host reads (45_host_interface.md R231 to R235)
  | rdCtrl
  | rdStatus
  | rdSrcLo
  | rdSrcHi
  | rdLenLo
  | rdLenHi
  | rdReserved6to7 (slot : BitVec 6)
  | rdDigest (n : BitVec 3)
  | rdReserved16to31 (slot : BitVec 6)
  | rdReserved32to63 (slot : BitVec 6)
  -- commands (R240 to R243)
  | nop (ign : BitVec 28)
  | start (ign : BitVec 28)
  | wrCtrlReserved2to3 (ign : BitVec 28) (cmd : BitVec 4)
  | wrCtrlReserved4to7 (ign : BitVec 28) (cmd : BitVec 4)
  | wrCtrlReserved8toF (ign : BitVec 28) (cmd : BitVec 4)
  -- host writes (R236 to R239, R244, R245)
  | wrStatus (v : Word)
  | wrSrcLo (v : Word)
  | wrSrcHi (v : Word)
  | wrLenLo (v : Word)
  | wrLenHi (v : Word)
  | wrReserved6to7 (slot : BitVec 6) (v : Word)
  | wrDigest (n : BitVec 3) (v : Word)
  | wrReserved16to31 (slot : BitVec 6) (v : Word)
  | wrReserved32to63 (slot : BitVec 6) (v : Word)
  /-- A word with RSV = 1: not a transaction (30_encoding.md R92). -/
  | invalidRsv (we : BitVec 1) (slot : BitVec 6) (v : Word)
  -- micro-operations (30_encoding.md R101)
  | frame
  | loadw (t : BitVec 6)
  | expand16to31 (t : BitVec 6)
  | expand32to63 (t : BitVec 6)
  | initwv
  | round (t : BitVec 6)
  | feedback
  | nextblk
  | finish
  deriving DecidableEq, Repr

/-- A word together with its level: a decoder knows the length from the level alone (R90). -/
inductive Code where
  | htw (w : Htw)
  | uop (u : Uop)
  deriving DecidableEq, Repr

/-- The fixed bits of a row of spec/opcode_table.json: a word `w` belongs to the row when
`w &&& mask = pattern`. -/
inductive TableRow where
  | htw (pattern mask : Htw)
  | uop (pattern mask : Uop)
  deriving DecidableEq, Repr

end Sys2Proof
end

