-- ==== Sys2Proof/WellFormed.lean ====
section
/-! DEFINITION. Which instruction terms some valid word stands for: the operand ranges of
30_encoding.md R92, R94 and R101. -/

namespace Sys2Proof

/-- The operand ranges: reserved slots (R92), reserved command codes (R94), the index of a
micro-operation (R101). A word with RSV = 1 is no transaction (R92), so its term is never
well formed. -/
def Instr.wellFormed : Instr → Bool
  | .rdCtrl => true
  | .rdStatus => true
  | .rdSrcLo => true
  | .rdSrcHi => true
  | .rdLenLo => true
  | .rdLenHi => true
  | .rdReserved6to7 slot => slot == 6 || slot == 7
  | .rdDigest _ => true
  | .rdReserved16to31 slot => decide (16 ≤ slot) && decide (slot < 32)
  | .rdReserved32to63 slot => decide (32 ≤ slot)
  | .nop _ => true
  | .start _ => true
  | .wrCtrlReserved2to3 _ cmd => cmd == 2 || cmd == 3
  | .wrCtrlReserved4to7 _ cmd => decide (4 ≤ cmd) && decide (cmd < 8)
  | .wrCtrlReserved8toF _ cmd => decide (8 ≤ cmd)
  | .wrStatus _ => true
  | .wrSrcLo _ => true
  | .wrSrcHi _ => true
  | .wrLenLo _ => true
  | .wrLenHi _ => true
  | .wrReserved6to7 slot _ => slot == 6 || slot == 7
  | .wrDigest _ _ => true
  | .wrReserved16to31 slot _ => decide (16 ≤ slot) && decide (slot < 32)
  | .wrReserved32to63 slot _ => decide (32 ≤ slot)
  | .invalidRsv _ _ _ => false
  | .frame => true
  | .loadw t => decide (t < 16)
  | .expand16to31 t => decide (16 ≤ t) && decide (t < 32)
  | .expand32to63 t => decide (32 ≤ t)
  | .initwv => true
  | .round _ => true
  | .feedback => true
  | .nextblk => true
  | .finish => true

/-- `i` is an instruction that some valid word stands for. -/
abbrev Instr.WellFormed (i : Instr) : Prop := i.wellFormed = true

end Sys2Proof
end

