-- ==== Sys2Proof/Decode.lean ====
section
/-! DEFINITION. The decoder of both levels of words, total, refusing by name; then the encoder; the
opcode table's rows; and the decoder in the opcode table's numbering of bits (30_encoding.md R90 to
R102). -/

namespace Sys2Proof

/-- Why a word is refused. -/
inductive Reject where
  /-- An HTW with RSV = 1 encodes no transaction (R92, 93_implementation_defined.md I17). -/
  | rsvSet
  /-- A reserved UOP word (R102, 93_implementation_defined.md I6). -/
  | reservedUop
  deriving DecidableEq, Repr

/-! The fields of an HTW (R91) and of a UOP (R100). -/

/-- WE, bit 39: 1 is a write. -/
def htwWe (w : Htw) : BitVec 1 := w.extractLsb' 39 1
/-- RSV, bit 38: must be 0. -/
def htwRsv (w : Htw) : BitVec 1 := w.extractLsb' 38 1
/-- WIDX, bits 37:32: the register slot. -/
def htwSlot (w : Htw) : BitVec 6 := w.extractLsb' 32 6
/-- DATA, bits 31:0. -/
def htwData (w : Htw) : Word := w.extractLsb' 0 32
/-- CMD, bits 3:0 of the data of a CTRL write (R93). -/
def ctrlCmd (v : Word) : BitVec 4 := v.extractLsb' 0 4
/-- IGN, bits 31:4 of the data of a CTRL write (R93). -/
def ctrlIgn (v : Word) : BitVec 28 := v.extractLsb' 4 28
/-- CLASS, bits 11:8. -/
def uopClass (u : Uop) : BitVec 4 := u.extractLsb' 8 4
/-- Z2, bits 7:6: always 0. -/
def uopZ2 (u : Uop) : BitVec 2 := u.extractLsb' 6 2
/-- T, bits 5:0: the index. -/
def uopT (u : Uop) : BitVec 6 := u.extractLsb' 0 6
/-- DIGESTn stands at slot 8 + n (10_state.md R22), so n is the slot's low three bits. -/
def slotDigest (slot : BitVec 6) : BitVec 3 := slot.extractLsb' 0 3

/-- A read, WE = 0 (R92). -/
def decodeRead (slot : BitVec 6) : Instr :=
  if slot = 0 then .rdCtrl
  else if slot = 1 then .rdStatus
  else if slot = 2 then .rdSrcLo
  else if slot = 3 then .rdSrcHi
  else if slot = 4 then .rdLenLo
  else if slot = 5 then .rdLenHi
  else if slot < 8 then .rdReserved6to7 slot
  else if slot < 16 then .rdDigest (slotDigest slot)
  else if slot < 32 then .rdReserved16to31 slot
  else .rdReserved32to63 slot

/-- A CTRL write: the command (R93, R94). -/
def decodeCommand (ign : BitVec 28) (cmd : BitVec 4) : Instr :=
  if cmd = 0 then .nop ign
  else if cmd = 1 then .start ign
  else if cmd < 4 then .wrCtrlReserved2to3 ign cmd
  else if cmd < 8 then .wrCtrlReserved4to7 ign cmd
  else .wrCtrlReserved8toF ign cmd

/-- A write, WE = 1 (R92). -/
def decodeWrite (slot : BitVec 6) (v : Word) : Instr :=
  if slot = 0 then decodeCommand (ctrlIgn v) (ctrlCmd v)
  else if slot = 1 then .wrStatus v
  else if slot = 2 then .wrSrcLo v
  else if slot = 3 then .wrSrcHi v
  else if slot = 4 then .wrLenLo v
  else if slot = 5 then .wrLenHi v
  else if slot < 8 then .wrReserved6to7 slot v
  else if slot < 16 then .wrDigest (slotDigest slot) v
  else if slot < 32 then .wrReserved16to31 slot v
  else .wrReserved32to63 slot v

/-- The transaction an HTW encodes; a word with RSV = 1 is refused (R92). -/
def decodeHtw (w : Htw) : Except Reject Instr :=
  if htwRsv w = 1 then .error .rsvSet
  else if htwWe w = 0 then .ok (decodeRead (htwSlot w))
  else .ok (decodeWrite (htwSlot w) (htwData w))

/-- A class that takes no index: T must be 0 (R100, R102). -/
def decodeBareUop (t : BitVec 6) (i : Instr) : Except Reject Instr :=
  if t = 0 then .ok i else .error .reservedUop

/-- A UOP word with Z2 = 0, by CLASS and T (R101). -/
def decodeClass (c : BitVec 4) (t : BitVec 6) : Except Reject Instr :=
  if c = 1 then decodeBareUop t .frame
  else if c = 2 then (if t < 16 then .ok (.loadw t) else .error .reservedUop)
  else if c = 3 then
    (if t < 16 then .error .reservedUop
     else if t < 32 then .ok (.expand16to31 t)
     else .ok (.expand32to63 t))
  else if c = 4 then decodeBareUop t .initwv
  else if c = 5 then .ok (.round t)
  else if c = 6 then decodeBareUop t .feedback
  else if c = 7 then decodeBareUop t .nextblk
  else if c = 8 then decodeBareUop t .finish
  else .error .reservedUop

/-- The micro-operation a UOP word names; the reserved encodings of R102 are refused. -/
def decodeUop (u : Uop) : Except Reject Instr :=
  if uopZ2 u = 0 then decodeClass (uopClass u) (uopT u) else .error .reservedUop

/-- The decoder, by level (R90). -/
def decode : Code → Except Reject Instr
  | .htw w => decodeHtw w
  | .uop u => decodeUop u

/-! The encoder, from the same tables. -/

/-- An HTW from its fields (R91). -/
def htwWord (we rsv : BitVec 1) (slot : BitVec 6) (v : Word) : Htw := we ++ rsv ++ slot ++ v

/-- A read: WE = 0 and DATA = 0 (R91, R103). -/
def readWord (slot : BitVec 6) : Code := .htw (htwWord 0 0 slot 0)

/-- A write: WE = 1 (R91, R103). -/
def writeWord (slot : BitVec 6) (v : Word) : Code := .htw (htwWord 1 0 slot v)

/-- A CTRL write from its fields (R93). -/
def commandWord (ign : BitVec 28) (cmd : BitVec 4) : Code := writeWord 0 (ign ++ cmd)

/-- The slot of DIGESTn, 8 + n (10_state.md R22). -/
def digestSlot (n : BitVec 3) : BitVec 6 := (0b001 : BitVec 3) ++ n

/-- A UOP word from its class and index, Z2 = 0 (R100). -/
def uopWord (c : BitVec 4) (t : BitVec 6) : Uop := c ++ (0 : BitVec 2) ++ t

/-- The word of an instruction (R91, R93, R100, R101). -/
def encode : Instr → Code
  | .rdCtrl => readWord 0
  | .rdStatus => readWord 1
  | .rdSrcLo => readWord 2
  | .rdSrcHi => readWord 3
  | .rdLenLo => readWord 4
  | .rdLenHi => readWord 5
  | .rdReserved6to7 slot => readWord slot
  | .rdDigest n => readWord (digestSlot n)
  | .rdReserved16to31 slot => readWord slot
  | .rdReserved32to63 slot => readWord slot
  | .nop ign => commandWord ign 0
  | .start ign => commandWord ign 1
  | .wrCtrlReserved2to3 ign cmd => commandWord ign cmd
  | .wrCtrlReserved4to7 ign cmd => commandWord ign cmd
  | .wrCtrlReserved8toF ign cmd => commandWord ign cmd
  | .wrStatus v => writeWord 1 v
  | .wrSrcLo v => writeWord 2 v
  | .wrSrcHi v => writeWord 3 v
  | .wrLenLo v => writeWord 4 v
  | .wrLenHi v => writeWord 5 v
  | .wrReserved6to7 slot v => writeWord slot v
  | .wrDigest n v => writeWord (digestSlot n) v
  | .wrReserved16to31 slot v => writeWord slot v
  | .wrReserved32to63 slot v => writeWord slot v
  | .invalidRsv we slot v => .htw (htwWord we 1 slot v)
  | .frame => .uop (uopWord 1 0)
  | .loadw t => .uop (uopWord 2 t)
  | .expand16to31 t => .uop (uopWord 3 t)
  | .expand32to63 t => .uop (uopWord 3 t)
  | .initwv => .uop (uopWord 4 0)
  | .round t => .uop (uopWord 5 t)
  | .feedback => .uop (uopWord 6 0)
  | .nextblk => .uop (uopWord 7 0)
  | .finish => .uop (uopWord 8 0)

/-- The word with the bits its transaction ignores and does not carry set to 0: the DATA of a read
(R91). Every other bit of a word is an operand or fixed. -/
def canonicalCode : Code → Code
  | .htw w => if htwWe w = 0 then .htw (htwWord 0 (htwRsv w) (htwSlot w) 0) else .htw w
  | .uop u => .uop u

/-- The row of spec/opcode_table.json an instruction belongs to: its match and its mask. -/
def tableRow : Instr → TableRow
  | .rdCtrl => .htw 0x0000000000 0xFF00000000
  | .rdStatus => .htw 0x0100000000 0xFF00000000
  | .rdSrcLo => .htw 0x0200000000 0xFF00000000
  | .rdSrcHi => .htw 0x0300000000 0xFF00000000
  | .rdLenLo => .htw 0x0400000000 0xFF00000000
  | .rdLenHi => .htw 0x0500000000 0xFF00000000
  | .rdReserved6to7 _ => .htw 0x0600000000 0xFE00000000
  | .rdDigest _ => .htw 0x0800000000 0xF800000000
  | .rdReserved16to31 _ => .htw 0x1000000000 0xF000000000
  | .rdReserved32to63 _ => .htw 0x2000000000 0xE000000000
  | .nop _ => .htw 0x8000000000 0xFF0000000F
  | .start _ => .htw 0x8000000001 0xFF0000000F
  | .wrCtrlReserved2to3 _ _ => .htw 0x8000000002 0xFF0000000E
  | .wrCtrlReserved4to7 _ _ => .htw 0x8000000004 0xFF0000000C
  | .wrCtrlReserved8toF _ _ => .htw 0x8000000008 0xFF00000008
  | .wrStatus _ => .htw 0x8100000000 0xFF00000000
  | .wrSrcLo _ => .htw 0x8200000000 0xFF00000000
  | .wrSrcHi _ => .htw 0x8300000000 0xFF00000000
  | .wrLenLo _ => .htw 0x8400000000 0xFF00000000
  | .wrLenHi _ => .htw 0x8500000000 0xFF00000000
  | .wrReserved6to7 _ _ => .htw 0x8600000000 0xFE00000000
  | .wrDigest _ _ => .htw 0x8800000000 0xF800000000
  | .wrReserved16to31 _ _ => .htw 0x9000000000 0xF000000000
  | .wrReserved32to63 _ _ => .htw 0xA000000000 0xE000000000
  | .invalidRsv _ _ _ => .htw 0x4000000000 0x4000000000
  | .frame => .uop 0x100 0xFFF
  | .loadw _ => .uop 0x200 0xFF0
  | .expand16to31 _ => .uop 0x310 0xFF0
  | .expand32to63 _ => .uop 0x320 0xFE0
  | .initwv => .uop 0x400 0xFFF
  | .round _ => .uop 0x500 0xFC0
  | .feedback => .uop 0x600 0xFFF
  | .nextblk => .uop 0x700 0xFFF
  | .finish => .uop 0x800 0xFFF

/-- The word lies in the row: its fixed bits are the row's. -/
def inRow : Code → TableRow → Bool
  | .htw w, .htw pattern mask => w &&& mask == pattern
  | .uop u, .uop pattern mask => u &&& mask == pattern
  | .htw _, .uop _ _ => false
  | .uop _, .htw _ _ => false

/-- The level of a row of the opcode table, from the number of bits the table gives it: a UOP row
has 12 bits, 16 in whole bytes; every other row is an HTW of 40 bits (R90; log 18). -/
def tableCode (nbits w : Nat) : Option Code :=
  if 8 < nbits && nbits ≤ 16 then
    if w < 2 ^ 12 then some (.uop (BitVec.ofNat 12 w)) else none
  else
    if w < 2 ^ 40 then some (.htw (BitVec.ofNat 40 w)) else none

/-- The instruction the decoder reads from a word numbered as the opcode table numbers its bits. -/
def decodeTableWord (nbits w : Nat) : Option Instr :=
  match tableCode nbits w with
  | none => none
  | some c =>
    match decode c with
    | .ok i => some i
    | .error _ => none

end Sys2Proof
end

