-- ==== Sys2Proof/Config.lean ====
section
/-! DEFINITION. What the spec leaves open and the model takes as a constant: the free values, and
the values the assumption log names. -/

namespace Sys2Proof

/-- The free words: nothing in Lean can evaluate one. They stand for the hash state of a computation
whose message the host wrote while BUSY, which is unspecified (70_reset_and_hazards.md R311,
93_implementation_defined.md I1). The argument is State's counter `draws`. DESIGN CHOICE, log 8. -/
opaque Config.freeWord : Nat → Word

/-- What a byte of message memory that nothing has written reads as. DESIGN CHOICE, unsafe, log 2. -/
def Config.unlistedByte : Byte := 0x00

/-- MSG_SIZE in the state after reset: the largest the spec allows (00_scope.md R6). The parameter is
open; DESIGN CHOICE, unsafe, log 3. -/
def Config.resetMsgSize : Nat := 2 ^ 64

end Sys2Proof
end

