-- ==== Sys2Proof/Machine/State.lean ====
section
/-! DEFINITION. The state of the machine as plain data (10_state.md R20), the turns of its agents
(00_scope.md R11), the reasons it can stop, and the state right after reset (10_state.md R39). -/

namespace Sys2Proof.Machine

/-- The engine's phase (10_state.md R25). -/
inductive Phase where
  | idle
  | framing
  | perblock
  | done
  deriving DecidableEq, Repr

/-- The eight working variables (10_state.md R30). Lower-case `h` is a working variable, never the
hash state. -/
structure WorkVars where
  a : Word
  b : Word
  c : Word
  d : Word
  e : Word
  f : Word
  g : Word
  h : Word
  deriving DecidableEq, Repr

/-- One step of one agent still to come (00_scope.md R11). The list of them in State is the
interleaving. DESIGN CHOICE, safe, log 4. -/
inductive Turn where
  /-- The host issues one transaction (45_host_interface.md R230). -/
  | host (w : Htw)
  /-- The host runs its POLL loop: RD STATUS until BUSY = 0 (30_encoding.md R104). Log 6. -/
  | poll
  /-- The host writes one byte of message memory (00_scope.md R10 MemWrite, 70_reset_and_hazards.md
  R317). A MemWrite of n bytes is n of these, in the order the list gives: R10 leaves its byte order and
  its atomicity open. DESIGN CHOICE, safe, log 24. -/
  | memWrite (addr : Dword) (byte : Byte)
  /-- The engine takes its step, if it has one (44_sequencer_serialization.md R214). -/
  | engine
  /-- The `rst` input is asserted and deasserted: one atomic step (70_reset_and_hazards.md R300). -/
  | rst
  deriving DecidableEq, Repr

/-- Message memory: (address, byte) pairs, addresses strictly rising, no entry equal to what an
unlisted address reads as (20_memory.md R60). -/
abbrev Memory := List Host.Cell

/-- The state. The first block is 10_state.md R20's; then message memory, its size and the value the
host's last read returned; then the model's own fields. `evt`, STATUS, CTRL and DIGESTn have no
storage of their own (R23, R24, R27, R38); log 22. -/
structure State where
  phase : Phase
  errcode : BitVec 4
  SRC : Dword
  LEN : Dword
  H : Vector Word 8
  wv : WorkVars
  W : Vector Word 64
  seq : Uop
  blk : BitVec 56
  BITLEN : Dword
  NBLK : BitVec 56
  /-- Message memory; the host's, not the engine's (R20). -/
  mem : Memory
  /-- The parameter MSG_SIZE (00_scope.md R6): no step changes it. Log 3. -/
  msgSize : Nat
  /-- The value the host's last read returned: the port h_rdata (30_encoding.md R106). Log 7. -/
  hRdata : Word
  /-- The model's own: the steps of the agents still to come. Log 4. -/
  turns : List Turn
  /-- The model's own: the host wrote a byte of the message while this computation was BUSY, so its
  final H is unspecified (70_reset_and_hazards.md R311). Log 8. -/
  msgDisturbed : Bool
  /-- The model's own: how many free values have been drawn. Log 8. -/
  draws : Nat
  deriving DecidableEq, Repr

/-- Why the machine stops with a fault. -/
inductive Fault where
  /-- A UOP word that 30_encoding.md R102 reserves: raised by the engine's step when `seq` holds one,
  and by LOADW or EXPAND on an index outside its range. Safe: the spec calls it a fault of the model
  (93_implementation_defined.md I6), and the invariant rules it out. -/
  | reservedUop
  /-- A message-memory address of MSG_SIZE or more, which does not exist (20_memory.md R60): raised by
  MemRead (the range check of START rules it out) and by a host write there. Safe: the machine stops.
  Logs 14 and 15. -/
  | msgAddress
  /-- A padded byte P(j) with j not below PLEN, which 41_padding.md R151 does not define: raised by
  LOADW. Safe: the invariant rules it out. Log 15. -/
  | padIndex
  deriving DecidableEq, Repr

/-- Why a step has no meaning. -/
inductive Refusal where
  /-- An instruction the model gives no meaning, by its mnemonic in the opcode table: raised by an arm
  of exec that is not modelled. None is. Safe. -/
  | notModelled (mnemonic : String)
  /-- An HTW with RSV = 1 encodes no transaction and has no engine semantics (30_encoding.md R92):
  raised by the host's turn and by the meaning of that row. Safe: the machine stops. Log 11. -/
  | notATransaction
  deriving DecidableEq, Repr

/-- The machine right after reset (10_state.md R39), nothing in flight (70_reset_and_hazards.md R317).
H, the working variables, W, blk, BITLEN and NBLK are unspecified there: 0 in the model, and seq is
FRAME (DESIGN CHOICE, unsafe, log 1). Memory lists nothing (log 2); MSG_SIZE is log 3, hRdata log 7. -/
def State.reset : State :=
  { phase := .idle
    errcode := 0
    SRC := 0
    LEN := 0
    H := Vector.replicate 8 0
    wv := { a := 0, b := 0, c := 0, d := 0, e := 0, f := 0, g := 0, h := 0 }
    W := Vector.replicate 64 0
    seq := 0x100
    blk := 0
    BITLEN := 0
    NBLK := 0
    mem := []
    msgSize := Config.resetMsgSize
    hRdata := 0
    turns := []
    msgDisturbed := false
    draws := 0 }

end Sys2Proof.Machine
end

