-- ==== Sys2Proof/Machine/Flags.lean ====
section
/-! DEFINITION. The status the host sees, computed from `phase` and `errcode` (10_state.md R24, R25,
R38; 30_encoding.md R96). The engine has no other flags (R20). -/

namespace Sys2Proof.Machine

/-- The two bits of `phase` (R25). -/
def phaseCode : Phase → BitVec 2
  | .idle => 0b00
  | .framing => 0b01
  | .perblock => 0b10
  | .done => 0b11

/-- STATUS.BUSY: `phase` is FRAMING or PERBLOCK (R24). -/
def State.busy (s : State) : Bool := s.phase == .framing || s.phase == .perblock

/-- STATUS.DONE: `phase` is DONE (R24). -/
def State.isDone (s : State) : Bool := s.phase == .done

/-- STATUS.ERR: `errcode` is not 0 (R24). -/
def State.err (s : State) : Bool := s.errcode != 0

/-- STATUS as read (R96): reserved bits are 0. -/
def State.statusWord (s : State) : Word :=
  (0 : BitVec 20) ++ s.errcode ++ (0 : BitVec 2) ++ phaseCode s.phase ++ (0 : BitVec 1)
    ++ BitVec.ofBool s.err ++ BitVec.ofBool s.isDone ++ BitVec.ofBool s.busy

/-- The `evt` output: a level, DONE or ERR (R38; 60_exceptions.md R275). -/
def State.evt (s : State) : Bool := s.isDone || s.err

end Sys2Proof.Machine
end

