-- ==== Sys2Proof/Machine/Ops.lean ====
section
/-! DEFINITION. The named operations over message memory and the registers; the rejection of a START,
which is the engine's only exception, and what ends it (60_exceptions.md R271, R274); reset. -/

namespace Sys2Proof.Machine

/-! Message memory (20_memory.md). -/

/-- The byte message memory holds at an address. -/
def Memory.read : Memory → Nat → Byte
  | [], _ => Config.unlistedByte
  | (a, b) :: m, x => if a = x then b else Memory.read m x

/-- List a byte in front, unless it is what an unlisted address reads as. -/
def Memory.put (x : Nat) (b : Byte) (m : Memory) : Memory :=
  if b = Config.unlistedByte then m else (x, b) :: m

/-- Write one byte, keeping the canonical form. -/
def Memory.write : Memory → Nat → Byte → Memory
  | [], x, b => Memory.put x b []
  | (a, c) :: m, x, b =>
    if x < a then Memory.put x b ((a, c) :: m)
    else if x = a then Memory.put x b m
    else (a, c) :: Memory.write m x b

/-- The canonical form: addresses strictly rising, no entry equal to what an unlisted address reads
as. -/
def Memory.wf : Memory → Bool
  | [] => true
  | (a, b) :: m => b != Config.unlistedByte && m.all (fun c => decide (a < c.1)) && Memory.wf m

/-- MemRead(addr, 1) (R61): the byte at an address below MSG_SIZE. It changes nothing. At MSG_SIZE and
above there is no byte (R60): the model faults, which the range check of START rules out (log 15). -/
def memRead (s : State) (addr : Nat) : Except Fault Byte :=
  if addr < s.msgSize then .ok (s.mem.read addr) else .error .msgAddress

/-- The address is one of the message, SRC..SRC+L-1 (70_reset_and_hazards.md R311). -/
def State.inMessage (s : State) (addr : Nat) : Bool :=
  decide (s.SRC.toNat ≤ addr) && decide (addr < s.SRC.toNat + s.LEN.toNat)

/-- The host writes one byte of message memory, the only width there is (00_scope.md R10; log 24). Writing a byte of the message while
BUSY breaks the duty of 70_reset_and_hazards.md R311, and leaves the final H of this computation
unspecified (logs 8 and 9). -/
def storeByte (addr : Nat) (byte : Byte) (s : State) : State :=
  { s with
    mem := s.mem.write addr byte
    msgDisturbed := s.msgDisturbed || (s.busy && s.inMessage addr) }

/-! The registers. -/

/-- The transaction returns `v` to the host (45_host_interface.md R230). -/
def returnData (v : Word) (s : State) : State := { s with hRdata := v }

/-- A host write that is dropped while BUSY (70_reset_and_hazards.md R313). -/
def unlessBusy (f : State → State) (s : State) : State := if s.busy then s else f s

/-- Write SRC. -/
def setSrc (v : Dword) (s : State) : State := { s with SRC := v }

/-- Write LEN. -/
def setLen (v : Dword) (s : State) : State := { s with LEN := v }

/-- `seq <- u` (00_scope.md R10). -/
def setSeq (u : Uop) (s : State) : State := { s with seq := u }

/-- W[t] as read. -/
def State.schedAt (s : State) (t : BitVec 6) : Word := s.W[t.toNat]'(t.isLt)

/-- `W[t] <- v`. -/
def setSched (t : BitVec 6) (v : Word) (s : State) : State :=
  { s with W := s.W.set t.toNat v t.isLt }

/-- Write the eight working variables at once. -/
def setWorkVars (v : WorkVars) (s : State) : State := { s with wv := v }

/-- Write the hash state. -/
def setHash (v : Vector Word 8) (s : State) : State := { s with H := v }

/-- The agents' steps still to come. -/
def setTurns (l : List Turn) (s : State) : State := { s with turns := l }

/-! The exception: a rejected START. -/

/-- `reject(code)` (60_exceptions.md R271): the code is recorded, the phase is IDLE, and nothing else
changes. -/
def reject (code : BitVec 4) (s : State) : State := { s with errcode := code, phase := .idle }

/-- The accepted START, which also ends a rejection (45_host_interface.md R240; 60_exceptions.md
R274): errcode is cleared, H is loaded from IV, and FRAME is next. The message is taken as it stands,
so the computation starts undisturbed (log 8). -/
def acceptStart (s : State) : State :=
  { s with errcode := 0, H := ivRom, phase := .framing, seq := uopWord 1 0, msgDisturbed := false }

/-- The checks of a START in their order of priority (60_exceptions.md R273): LEN_TOO_LARGE, then
MSG_RANGE, on integers. -/
def startError (s : State) : Option (BitVec 4) :=
  if 2 ^ 61 ≤ s.LEN.toNat then some 1
  else if 0 < s.LEN.toNat ∧ s.msgSize < s.SRC.toNat + s.LEN.toNat then some 2
  else none

/-- A START while BUSY = 0 (45_host_interface.md R240). -/
def startIdle (s : State) : State :=
  match startError s with
  | some code => reject code s
  | none => acceptStart s

/-! The end of a computation. -/

/-- Eight free words, none of them drawn before. -/
def freeHash (n : Nat) : Vector Word 8 :=
  #v[Config.freeWord n, Config.freeWord (n + 1), Config.freeWord (n + 2), Config.freeWord (n + 3),
     Config.freeWord (n + 4), Config.freeWord (n + 5), Config.freeWord (n + 6), Config.freeWord (n + 7)]

/-- The final H of a computation: as the last FEEDBACK left it, or, where the host broke the duty of
70_reset_and_hazards.md R311, any value (93_implementation_defined.md I1; log 8). -/
def settleHash (s : State) : State :=
  if s.msgDisturbed then { s with H := freeHash s.draws, draws := s.draws + 8 } else s

/-! Reset. -/

/-- Reset (70_reset_and_hazards.md R300): every element of the engine takes its value after reset.
Message memory, its size, what the host has read and what it will do are not the engine's (log 13). -/
def resetEngine (s : State) : State :=
  { State.reset with
    mem := s.mem
    msgSize := s.msgSize
    hRdata := s.hRdata
    turns := s.turns
    draws := s.draws }

end Sys2Proof.Machine
end

