-- ==== Sys2Proof/Machine/Operands.lean ====
section
/-! DEFINITION. The operands of transactions and micro-operations: the halves of SRC and LEN
(10_state.md R26, 30_encoding.md R95), the padding quantities and the padded bytes (41_padding.md R150,
R151), and the big-endian words made of them (20_memory.md R63). -/

namespace Sys2Proof.Machine

/-- Bits 31:0. -/
def loHalf (d : Dword) : Word := d.extractLsb' 0 32

/-- Bits 63:32. -/
def hiHalf (d : Dword) : Word := d.extractLsb' 32 32

/-- `d` with bits 31:0 replaced. -/
def withLo (d : Dword) (v : Word) : Dword := hiHalf d ++ v

/-- `d` with bits 63:32 replaced. -/
def withHi (d : Dword) (v : Word) : Dword := v ++ loHalf d

/-- DIGESTn as read (10_state.md R27): H[n] in DONE, else 0. -/
def State.digestReg (s : State) (n : BitVec 3) : Word :=
  if s.isDone then s.H[n.toNat]'(n.isLt) else 0

/-- BITLEN of a length: 8L modulo 2^64 (30_encoding.md R95). -/
def bitLength (len : Dword) : Dword := 8 * len

/-- NBLK of a length, computed on integers (R150). -/
def blockCount (len : Nat) : Nat := (len + 8) / 64 + 1

/-- PLEN, the padded length in bytes: 64 * NBLK (R150). -/
def State.paddedLen (s : State) : Nat := 64 * s.NBLK.toNat

/-- The word whose most significant byte is `b0` (00_scope.md R10). -/
def be32 (b0 b1 b2 b3 : Byte) : Word := b0 ++ b1 ++ b2 ++ b3

/-- Byte k of the 8-byte big-endian encoding of `v`, the most significant byte being k = 0
(00_scope.md R10). -/
def beByte8 (v : Dword) (k : Nat) : Byte := v.extractLsb' (8 * (7 - k)) 8

/-- Byte k of the 4-byte big-endian encoding of `v` (00_scope.md R10). -/
def beByte4 (v : Word) (k : Nat) : Byte := v.extractLsb' (8 * (3 - k)) 8

/-- The padded byte P(j) (R151). The spec defines it for j < PLEN; elsewhere the model faults, which
the invariant rules out (log 15). -/
def padByte (s : State) (j : Nat) : Except Fault Byte :=
  if j < s.LEN.toNat then memRead s (s.SRC.toNat + j)
  else if j = s.LEN.toNat then .ok 0x80
  else if j + 8 < s.paddedLen then .ok 0x00
  else if j < s.paddedLen then .ok (beByte8 s.BITLEN (j + 8 - s.paddedLen))
  else .error .padIndex

/-- The word be32(P(j), P(j+1), P(j+2), P(j+3)), its bytes evaluated in this order (42_schedule.md
R170). -/
def padWord (s : State) (j : Nat) : Except Fault Word :=
  match padByte s j with
  | .error r => .error r
  | .ok b0 =>
    match padByte s (j + 1) with
    | .error r => .error r
    | .ok b1 =>
      match padByte s (j + 2) with
      | .error r => .error r
      | .ok b2 =>
        match padByte s (j + 3) with
        | .error r => .error r
        | .ok b3 => .ok (be32 b0 b1 b2 b3)

/-- The position of the first byte of schedule word t: 64 * blk + 4 * t (42_schedule.md R170). -/
def State.wordPos (s : State) (t : BitVec 6) : Nat := 64 * s.blk.toNat + 4 * t.toNat

end Sys2Proof.Machine
end

