-- ==== Sys2Proof/Machine/Command.lean ====
section
/-! DEFINITION. The commands, which are writes of CTRL (45_host_interface.md R240 to R243), and the word
that is no transaction (30_encoding.md R92). Bits 31:4 of the data have no effect (10_state.md R23). -/

namespace Sys2Proof.Machine

/-- NOP: no effect, in any phase (R242). -/
def execNop (_ign : BitVec 28) (s : State) : Host.Outcome State Fault Refusal := .next s

/-- START: checked, then accepted or rejected (R240); ignored while BUSY (R241). -/
def execStart (_ign : BitVec 28) (s : State) : Host.Outcome State Fault Refusal :=
  .next (unlessBusy startIdle s)

/-- CMD 0x2 or 0x3: ignored, in any phase (R243; log 10). -/
def execWrCtrlReserved2to3 (_ign : BitVec 28) (_cmd : BitVec 4) (s : State) :
    Host.Outcome State Fault Refusal := .next s

/-- CMD 0x4 to 0x7: ignored, in any phase (R243; log 10). -/
def execWrCtrlReserved4to7 (_ign : BitVec 28) (_cmd : BitVec 4) (s : State) :
    Host.Outcome State Fault Refusal := .next s

/-- CMD 0x8 to 0xF: ignored, in any phase (R243; log 10). -/
def execWrCtrlReserved8toF (_ign : BitVec 28) (_cmd : BitVec 4) (s : State) :
    Host.Outcome State Fault Refusal := .next s

/-- A word with RSV = 1 encodes no transaction and has no engine semantics: refused (R92; log 11). -/
def execInvalidRsv (_we : BitVec 1) (_slot : BitVec 6) (_v : Word) (_s : State) :
    Host.Outcome State Fault Refusal := .refused .notATransaction

end Sys2Proof.Machine
end

