-- ==== Sys2Proof/Machine/Datapath.lean ====
section
/-! DEFINITION. The combinational functions of the datapath (40_datapath.md R120 to R128). None has
state, flags or exceptions (R131). ADD32 is the sum of `BitVec 32`, modulo 2^32 (R122). -/

namespace Sys2Proof.Machine

/-- ROTR for 1 ≤ n ≤ 31: the bits shifted out re-enter at the high end (R120). -/
def rotr (x : Word) (n : Nat) : Word := (x >>> n) ||| (x <<< (32 - n))

/-- SHR, the logical shift right (R121). -/
def shr (x : Word) (n : Nat) : Word := x >>> n

/-- CH, the choice function (R123). -/
def ch (e f g : Word) : Word := (e &&& f) ^^^ (~~~e &&& g)

/-- MAJ, the majority function (R124). -/
def maj (a b c : Word) : Word := (a &&& b) ^^^ (a &&& c) ^^^ (b &&& c)

/-- BSIG0, Σ0, written S0 (R125). -/
def bsig0 (a : Word) : Word := rotr a 2 ^^^ rotr a 13 ^^^ rotr a 22

/-- BSIG1, Σ1, written S1 (R126). -/
def bsig1 (e : Word) : Word := rotr e 6 ^^^ rotr e 11 ^^^ rotr e 25

/-- SSIG0, σ0, written s0; its third term is a shift (R127). -/
def ssig0 (x : Word) : Word := rotr x 7 ^^^ rotr x 18 ^^^ shr x 3

/-- SSIG1, σ1, written s1; its third term is a shift (R128). -/
def ssig1 (x : Word) : Word := rotr x 17 ^^^ rotr x 19 ^^^ shr x 10

end Sys2Proof.Machine
end

