-- ==== Sys2Proof/Machine/Compression.lean ====
section
/-! DEFINITION. The compression pipeline: INITWV, ROUND and FEEDBACK (43_compression.md R190 to R192). -/

namespace Sys2Proof.Machine

/-- The working variables as INITWV loads them (R190). -/
def hashVars (v : Vector Word 8) : WorkVars :=
  { a := v[0], b := v[1], c := v[2], d := v[3], e := v[4], f := v[5], g := v[6], h := v[7] }

/-- INITWV (R190). -/
def execInitwv (s : State) : Host.Outcome State Fault Refusal :=
  .next (setSeq (uopWord 5 0) (setWorkVars (hashVars s.H) s))

/-- T1 of a round (R191). -/
def roundT1 (v : WorkVars) (k w : Word) : Word := v.h + bsig1 v.e + ch v.e v.f v.g + k + w

/-- T2 of a round (R191). -/
def roundT2 (v : WorkVars) : Word := bsig0 v.a + maj v.a v.b v.c

/-- One round: every right-hand side is read before the round (R191). -/
def roundVars (v : WorkVars) (k w : Word) : WorkVars :=
  { a := roundT1 v k w + roundT2 v
    b := v.a
    c := v.b
    d := v.c
    e := v.d + roundT1 v k w
    f := v.e
    g := v.f
    h := v.g }

/-- What comes after ROUND t (R191). -/
def afterRound (t : BitVec 6) : Uop := if t < 63 then uopWord 5 (t + 1) else uopWord 6 0

/-- ROUND t (R191). -/
def execRound (t : BitVec 6) (s : State) : Host.Outcome State Fault Refusal :=
  .next (setSeq (afterRound t) (setWorkVars (roundVars s.wv (roundConst t) (s.schedAt t)) s))

/-- The hash state with the working variables added in, word by word (R192). -/
def addVars (v : Vector Word 8) (w : WorkVars) : Vector Word 8 :=
  #v[v[0] + w.a, v[1] + w.b, v[2] + w.c, v[3] + w.d, v[4] + w.e, v[5] + w.f, v[6] + w.g, v[7] + w.h]

/-- What comes after FEEDBACK (R192): the comparison is on integers (00_scope.md R8). -/
def afterFeedback (s : State) : Uop :=
  if s.blk.toNat + 1 < s.NBLK.toNat then uopWord 7 0 else uopWord 8 0

/-- FEEDBACK (R192). -/
def execFeedback (s : State) : Host.Outcome State Fault Refusal :=
  .next (setSeq (afterFeedback s) (setHash (addVars s.H s.wv) s))

end Sys2Proof.Machine
end

