-- ==== Sys2Proof/Machine/HostRead.lean ====
section
/-! DEFINITION. The host's reads (45_host_interface.md R231 to R235). A read returns one value and
changes no state of the engine (20_memory.md R67). -/

namespace Sys2Proof.Machine

/-- RD CTRL: CTRL has no storage and reads 0 (R231). -/
def execRdCtrl (s : State) : Host.Outcome State Fault Refusal := .next (returnData 0 s)

/-- RD STATUS (R232). -/
def execRdStatus (s : State) : Host.Outcome State Fault Refusal := .next (returnData s.statusWord s)

/-- RD SRC_LO (R233). -/
def execRdSrcLo (s : State) : Host.Outcome State Fault Refusal := .next (returnData (loHalf s.SRC) s)

/-- RD SRC_HI (R233). -/
def execRdSrcHi (s : State) : Host.Outcome State Fault Refusal := .next (returnData (hiHalf s.SRC) s)

/-- RD LEN_LO (R233). -/
def execRdLenLo (s : State) : Host.Outcome State Fault Refusal := .next (returnData (loHalf s.LEN) s)

/-- RD LEN_HI (R233). -/
def execRdLenHi (s : State) : Host.Outcome State Fault Refusal := .next (returnData (hiHalf s.LEN) s)

/-- RD of slot 6 or 7: reads 0 (R235; log 10). -/
def execRdReserved6to7 (_slot : BitVec 6) (s : State) : Host.Outcome State Fault Refusal :=
  .next (returnData 0 s)

/-- RD DIGESTn (R234). -/
def execRdDigest (n : BitVec 3) (s : State) : Host.Outcome State Fault Refusal :=
  .next (returnData (s.digestReg n) s)

/-- RD of a slot in 16 to 31: reads 0 (R235; log 10). -/
def execRdReserved16to31 (_slot : BitVec 6) (s : State) : Host.Outcome State Fault Refusal :=
  .next (returnData 0 s)

/-- RD of a slot in 32 to 63: reads 0 (R235; log 10). -/
def execRdReserved32to63 (_slot : BitVec 6) (s : State) : Host.Outcome State Fault Refusal :=
  .next (returnData 0 s)

end Sys2Proof.Machine
end

