-- ==== Sys2Proof/Machine/HostWrite.lean ====
section
/-! DEFINITION. The host's writes other than commands (45_host_interface.md R236 to R239, R244, R245). -/

namespace Sys2Proof.Machine

/-- WR STATUS: read-only, so no effect (R244). -/
def execWrStatus (_v : Word) (s : State) : Host.Outcome State Fault Refusal := .next s

/-- WR SRC_LO: dropped while BUSY (R236). -/
def execWrSrcLo (v : Word) (s : State) : Host.Outcome State Fault Refusal :=
  .next (unlessBusy (setSrc (withLo s.SRC v)) s)

/-- WR SRC_HI: dropped while BUSY (R237). -/
def execWrSrcHi (v : Word) (s : State) : Host.Outcome State Fault Refusal :=
  .next (unlessBusy (setSrc (withHi s.SRC v)) s)

/-- WR LEN_LO: dropped while BUSY (R238). -/
def execWrLenLo (v : Word) (s : State) : Host.Outcome State Fault Refusal :=
  .next (unlessBusy (setLen (withLo s.LEN v)) s)

/-- WR LEN_HI: dropped while BUSY; the length is checked only at START (R239). -/
def execWrLenHi (v : Word) (s : State) : Host.Outcome State Fault Refusal :=
  .next (unlessBusy (setLen (withHi s.LEN v)) s)

/-- WR of slot 6 or 7: ignored (R245; log 10). -/
def execWrReserved6to7 (_slot : BitVec 6) (_v : Word) (s : State) :
    Host.Outcome State Fault Refusal := .next s

/-- WR DIGESTn: read-only, so no effect (R244). -/
def execWrDigest (_n : BitVec 3) (_v : Word) (s : State) : Host.Outcome State Fault Refusal := .next s

/-- WR of a slot in 16 to 31: ignored (R245; log 10). -/
def execWrReserved16to31 (_slot : BitVec 6) (_v : Word) (s : State) :
    Host.Outcome State Fault Refusal := .next s

/-- WR of a slot in 32 to 63: ignored (R245; log 10). -/
def execWrReserved32to63 (_slot : BitVec 6) (_v : Word) (s : State) :
    Host.Outcome State Fault Refusal := .next s

end Sys2Proof.Machine
end

