-- ==== Sys2Proof/Machine/Padding.lean ====
section
/-! DEFINITION. FRAME, the Framing state's micro-operation (41_padding.md R153). -/

namespace Sys2Proof.Machine

/-- What FRAME writes: the bit length, the block count, block 0, the phase and the next
micro-operation (R153). -/
def frameState (s : State) : State :=
  { s with
    BITLEN := bitLength s.LEN
    NBLK := BitVec.ofNat 56 (blockCount s.LEN.toNat)
    blk := 0
    phase := .perblock
    seq := uopWord 2 0 }

/-- FRAME (R153). -/
def execFrame (s : State) : Host.Outcome State Fault Refusal := .next (frameState s)

end Sys2Proof.Machine
end

