-- ==== Sys2Proof/Machine/Schedule.lean ====
section
/-! DEFINITION. The word-schedule expander: LOADW and EXPAND (42_schedule.md R170, R171). -/

namespace Sys2Proof.Machine

/-- What comes after LOADW t (R170). -/
def afterLoadw (t : BitVec 6) : Uop := if t < 15 then uopWord 2 (t + 1) else uopWord 3 16

/-- LOADW t (R170). An index above 15 is a reserved encoding (30_encoding.md R102). -/
def execLoadw (t : BitVec 6) (s : State) : Host.Outcome State Fault Refusal :=
  if t < 16 then
    match padWord s (s.wordPos t) with
    | .ok v => .next (setSeq (afterLoadw t) (setSched t v s))
    | .error r => .fault r
  else .fault .reservedUop

/-- The derived schedule word (R171); each sum is ADD32. -/
def expandWord (t : BitVec 6) (s : State) : Word :=
  s.schedAt (t - 16) + ssig0 (s.schedAt (t - 15)) + s.schedAt (t - 7) + ssig1 (s.schedAt (t - 2))

/-- What comes after EXPAND t (R171). -/
def afterExpand (t : BitVec 6) : Uop := if t < 63 then uopWord 3 (t + 1) else uopWord 4 0

/-- What EXPAND t writes (R171). -/
def expandState (t : BitVec 6) (s : State) : State :=
  setSeq (afterExpand t) (setSched t (expandWord t s) s)

/-- EXPAND t for t = 16..31 (R171). An index below 16 is a reserved
encoding (30_encoding.md R102); one of the table's other row is not of this row (log 25). -/
def execExpand16to31 (t : BitVec 6) (s : State) : Host.Outcome State Fault Refusal :=
  if 16 ≤ t ∧ t < 32 then .next (expandState t s) else .fault .reservedUop

/-- EXPAND t for t = 32..63 (R171). An index below 16 is a reserved
encoding (30_encoding.md R102); one of the table's other row is not of this row (log 25). -/
def execExpand32to63 (t : BitVec 6) (s : State) : Host.Outcome State Fault Refusal :=
  if 32 ≤ t then .next (expandState t s) else .fault .reservedUop

end Sys2Proof.Machine
end

