-- ==== Sys2Proof/Machine/Sequencer.lean ====
section
/-! DEFINITION. The control-transfer micro-operations, NEXTBLK and FINISH, and the digest bytes
(44_sequencer_serialization.md R211, R212, R215). -/

namespace Sys2Proof.Machine

/-- NEXTBLK (R211). Its precondition blk + 1 < NBLK is kept by the invariant (log 16). -/
def execNextblk (s : State) : Host.Outcome State Fault Refusal :=
  .next (setSeq (uopWord 2 0) { s with blk := s.blk + 1 })

/-- FINISH (R212): H is as the last FEEDBACK left it, unless the host broke the duty of
70_reset_and_hazards.md R311 (log 8). -/
def execFinish (s : State) : Host.Outcome State Fault Refusal :=
  .next { settleHash s with phase := .done }

/-- Digest byte D[k] of a hash state: byte k mod 4 of the big-endian encoding of word k div 4 (R215). -/
def digestByte (v : Vector Word 8) (k : Fin 32) : Byte :=
  beByte4 (v[k.val / 4]'(by omega)) (k.val % 4)

end Sys2Proof.Machine
end

