-- ==== Sys2Proof/Machine/Dispatch.lean ====
section
/-! DEFINITION. The dispatch: one arm per instruction, each one call of its meaning. -/

namespace Sys2Proof.Machine

def exec (i : Instr) (s : State) : Host.Outcome State Fault Refusal :=
  match i with
  | .rdCtrl => Sys2Proof.Machine.execRdCtrl s
  | .rdStatus => Sys2Proof.Machine.execRdStatus s
  | .rdSrcLo => Sys2Proof.Machine.execRdSrcLo s
  | .rdSrcHi => Sys2Proof.Machine.execRdSrcHi s
  | .rdLenLo => Sys2Proof.Machine.execRdLenLo s
  | .rdLenHi => Sys2Proof.Machine.execRdLenHi s
  | .rdReserved6to7 slot => Sys2Proof.Machine.execRdReserved6to7 slot s
  | .rdDigest n => Sys2Proof.Machine.execRdDigest n s
  | .rdReserved16to31 slot => Sys2Proof.Machine.execRdReserved16to31 slot s
  | .rdReserved32to63 slot => Sys2Proof.Machine.execRdReserved32to63 slot s
  | .nop ign => Sys2Proof.Machine.execNop ign s
  | .start ign => Sys2Proof.Machine.execStart ign s
  | .wrCtrlReserved2to3 ign cmd => Sys2Proof.Machine.execWrCtrlReserved2to3 ign cmd s
  | .wrCtrlReserved4to7 ign cmd => Sys2Proof.Machine.execWrCtrlReserved4to7 ign cmd s
  | .wrCtrlReserved8toF ign cmd => Sys2Proof.Machine.execWrCtrlReserved8toF ign cmd s
  | .wrStatus v => Sys2Proof.Machine.execWrStatus v s
  | .wrSrcLo v => Sys2Proof.Machine.execWrSrcLo v s
  | .wrSrcHi v => Sys2Proof.Machine.execWrSrcHi v s
  | .wrLenLo v => Sys2Proof.Machine.execWrLenLo v s
  | .wrLenHi v => Sys2Proof.Machine.execWrLenHi v s
  | .wrReserved6to7 slot v => Sys2Proof.Machine.execWrReserved6to7 slot v s
  | .wrDigest n v => Sys2Proof.Machine.execWrDigest n v s
  | .wrReserved16to31 slot v => Sys2Proof.Machine.execWrReserved16to31 slot v s
  | .wrReserved32to63 slot v => Sys2Proof.Machine.execWrReserved32to63 slot v s
  | .invalidRsv we slot v => Sys2Proof.Machine.execInvalidRsv we slot v s
  | .frame => Sys2Proof.Machine.execFrame s
  | .loadw t => Sys2Proof.Machine.execLoadw t s
  | .expand16to31 t => Sys2Proof.Machine.execExpand16to31 t s
  | .expand32to63 t => Sys2Proof.Machine.execExpand32to63 t s
  | .initwv => Sys2Proof.Machine.execInitwv s
  | .round t => Sys2Proof.Machine.execRound t s
  | .feedback => Sys2Proof.Machine.execFeedback s
  | .nextblk => Sys2Proof.Machine.execNextblk s
  | .finish => Sys2Proof.Machine.execFinish s

end Sys2Proof.Machine
end

