-- ==== Sys2Proof/Machine/Turn.lean ====
section
/-! DEFINITION. What each agent does at its turn (00_scope.md R11), and where the next instruction is
read from: a host transaction from the host's turn, a micro-operation from `seq`. -/

namespace Sys2Proof.Machine

/-- The host issues one transaction (45_host_interface.md R230); a word that encodes none is refused
(30_encoding.md R92; log 11). -/
def hostTurn (w : Htw) (s : State) : Host.Outcome State Fault Refusal :=
  match decodeHtw w with
  | .ok i => exec i s
  | .error _ => .refused .notATransaction

/-- One round of the POLL loop (30_encoding.md R104): RD STATUS, and once more if bit 0 of the value
read is 1, after a turn of the engine (log 6). -/
def pollTurn (s : State) : Host.Outcome State Fault Refusal :=
  match exec .rdStatus s with
  | .next t =>
    .next (if t.hRdata.getLsbD 0 then setTurns (.engine :: .poll :: t.turns) t else t)
  | .fault r => .fault r
  | .refused r => .refused r

/-- The host writes one byte of message memory; at MSG_SIZE and above there is none (20_memory.md R60;
log 14). A write of n bytes is n turns (00_scope.md R10; log 24). -/
def memWriteTurn (addr : Dword) (byte : Byte) (s : State) : Host.Outcome State Fault Refusal :=
  if addr.toNat < s.msgSize then .next (storeByte addr.toNat byte s) else .fault .msgAddress

/-- The engine's step (44_sequencer_serialization.md R214): while BUSY, the micro-operation that `seq`
holds; otherwise it has no step, and nothing changes (log 5). -/
def engineTurn (s : State) : Host.Outcome State Fault Refusal :=
  if s.busy then
    match decodeUop s.seq with
    | .ok i => exec i s
    | .error _ => .fault .reservedUop
  else .next s

/-- Reset (70_reset_and_hazards.md R300). -/
def resetTurn (s : State) : Host.Outcome State Fault Refusal := .next (resetEngine s)

/-- One turn of one agent. -/
def takeTurn (turn : Turn) (s : State) : Host.Outcome State Fault Refusal :=
  match turn with
  | .host w => hostTurn w s
  | .poll => pollTurn s
  | .memWrite addr byte => memWriteTurn addr byte s
  | .engine => engineTurn s
  | .rst => resetTurn s

/-- The next turn: the first of the list; when none is left the engine runs on by itself, which is the
fairness of 70_reset_and_hazards.md R320 (log 4). -/
def nextTurn (s : State) : Host.Outcome State Fault Refusal :=
  match s.turns with
  | [] => engineTurn s
  | turn :: rest => takeTurn turn (setTurns rest s)

/-- The host's next step issues the transaction `w`. -/
def placeHtw (w : Htw) (s : State) : State := setTurns (.host w :: s.turns) s

/-- The sequencer holds `u` and the engine moves next. FRAME runs in FRAMING; the other
micro-operations run in PERBLOCK, framed as FRAME leaves it unless the state is in PERBLOCK already
(10_state.md R34; log 17). -/
def placeUop (u : Uop) (s : State) : State :=
  setSeq u (setTurns (.engine :: s.turns)
    (if uopClass u = 1 then { s with phase := .framing }
     else if s.phase = .perblock then s
     else frameState s))

/-- The word, read at its level, stored where the next step reads its instruction. -/
def placeCode (c : Code) (s : State) : State :=
  match c with
  | .htw w => placeHtw w s
  | .uop u => placeUop u s

end Sys2Proof.Machine
end

