-- ==== Sys2Proof/Machine/Pseudo.lean ====
section
/-! DEFINITION. The pseudo-instructions of a host program and the host's steps they stand for
(30_encoding.md R103, R104). -/

namespace Sys2Proof.Machine

/-- A pseudo-instruction (R104). -/
inductive Pseudo where
  | wr64Src (v : Dword)
  | wr64Len (v : Dword)
  | poll
  | rdDigest
  | digest (src len : Dword)
  deriving DecidableEq, Repr

/-- RD of a slot (R103). -/
def rdTurn (slot : BitVec 6) : Turn := .host (htwWord 0 0 slot 0)

/-- WR of a slot (R103). -/
def wrTurn (slot : BitVec 6) (v : Word) : Turn := .host (htwWord 1 0 slot v)

/-- A 64-bit write: the low half to `slot`, then the high half to the next slot (R104). -/
def wr64Turns (slot : BitVec 6) (v : Dword) : List Turn :=
  [wrTurn slot (v.extractLsb' 0 32), wrTurn (slot + 1) (v.extractLsb' 32 32)]

/-- RD DIGEST0 up to RD DIGEST7 (R104). -/
def rdDigestTurns : List Turn :=
  [rdTurn 8, rdTurn 9, rdTurn 10, rdTurn 11, rdTurn 12, rdTurn 13, rdTurn 14, rdTurn 15]

/-- The host steps a pseudo-instruction expands to (R104). -/
def expandPseudo : Pseudo → List Turn
  | .wr64Src v => wr64Turns 2 v
  | .wr64Len v => wr64Turns 4 v
  | .poll => [.poll]
  | .rdDigest => rdDigestTurns
  | .digest src len =>
    wr64Turns 2 src ++ wr64Turns 4 len ++ [wrTurn 0 1, .poll, rdTurn 1] ++ rdDigestTurns

end Sys2Proof.Machine
end

