-- ==== Sys2Proof/Safety.lean ====
section
/-! DEFINITION. The terms claims are stated in: the invariant of the machine, the count of
micro-operations still to come, and SHA-256 as a function of a list of bytes, written from the spec
without the machine's own functions, with what it means for a state to follow it. -/

namespace Sys2Proof.Machine

/-! The invariant. -/

/-- The message lies inside message memory and its bit length fits (60_exceptions.md R273). -/
def State.accepted (s : State) : Prop :=
  s.LEN.toNat < 2 ^ 61 ∧ (s.LEN.toNat = 0 ∨ s.SRC.toNat + s.LEN.toNat ≤ s.msgSize)

/-- The framing registers hold what FRAME writes for LEN (41_padding.md R153). -/
def State.framed (s : State) : Prop :=
  s.BITLEN.toNat = 8 * s.LEN.toNat ∧ s.NBLK.toNat = blockCount s.LEN.toNat

/-- The micro-operation `i` is one of PERBLOCK and fits `blk` and `NBLK` (44_sequencer_serialization.md
R211, R212). -/
def State.fits (s : State) (i : Instr) : Prop :=
  match i with
  | .frame => False
  | .nextblk => s.blk.toNat + 1 < s.NBLK.toNat
  | .finish => s.blk.toNat + 1 = s.NBLK.toNat
  | _ => s.blk.toNat < s.NBLK.toNat

/-- `seq` holds a micro-operation of PERBLOCK that fits the block (10_state.md R34). -/
def State.seqFits (s : State) : Prop := ∃ i, decodeUop s.seq = .ok i ∧ s.fits i

/-- What every step keeps, from any state that has it. -/
structure Invariant (s : State) : Prop where
  /-- Message memory is in canonical form. -/
  memWf : s.mem.wf = true
  /-- It lists no address outside message memory (20_memory.md R60). -/
  memInside : ∀ c ∈ s.mem, c.1 < s.msgSize
  /-- MSG_SIZE is in its range (00_scope.md R6). -/
  size : s.msgSize ≤ 2 ^ 64
  /-- The legal combinations of phase and errcode (10_state.md R24). -/
  status : (s.phase = .idle ∧ s.errcode.toNat ≤ 2) ∨ (s.phase ≠ .idle ∧ s.errcode = 0)
  /-- A computation runs only on an accepted input (60_exceptions.md R273). -/
  input : s.busy = true → s.accepted
  /-- In FRAMING, `seq` is FRAME (10_state.md R34). -/
  framing : s.phase = .framing → s.seq = 0x100
  /-- In PERBLOCK the framing registers stand, and `seq` fits the block (10_state.md R34, R35). -/
  perblock : s.phase = .perblock → s.framed ∧ s.seqFits

/-! The count of micro-operations still to come (44_sequencer_serialization.md R213). -/

/-- The micro-operations of one block from `i` on, `i` itself among them. -/
def blockStepsFrom : Instr → Nat
  | .loadw t => 131 - t.toNat
  | .expand16to31 t => 131 - t.toNat
  | .expand32to63 t => 131 - t.toNat
  | .initwv => 67
  | .round t => 66 - t.toNat
  | .feedback => 2
  | .nextblk => 1
  | .finish => 1
  | _ => 0

/-- The engine steps a computation still takes. -/
def State.stepsLeft (s : State) : Nat :=
  match s.phase with
  | .idle => 0
  | .done => 0
  | .framing => 1 + 131 * blockCount s.LEN.toNat
  | .perblock =>
    (match decodeUop s.seq with
      | .ok i => blockStepsFrom i
      | .error _ => 0) + 131 * (s.NBLK.toNat - 1 - s.blk.toNat)

/-- The message: bytes SRC to SRC+L-1 of message memory (00_scope.md glossary, Message). -/
def State.message (s : State) : List Byte :=
  (List.range s.LEN.toNat).map fun j => s.mem.read (s.SRC.toNat + j)

end Sys2Proof.Machine

/-! SHA-256 as a function of a list of bytes. -/

namespace Sys2Proof.Ref

open Sys2Proof.Machine (WorkVars kRom ivRom)

/-- Z, the number of zero bytes: (55 - L) mod 64, never negative (41_padding.md R150). -/
def zeroBytes (len : Nat) : Nat := ((55 - (len : Int)) % 64).toNat

/-- The 8-byte big-endian encoding of 8L (41_padding.md R151). -/
def lengthBytes (len : Nat) : List Byte :=
  [7, 6, 5, 4, 3, 2, 1, 0].map fun k => BitVec.ofNat 8 (8 * len / 256 ^ k)

/-- The padded message: M, 0x80, Z zero bytes, the length (00_scope.md glossary; 41_padding.md R151). -/
def padded (M : List Byte) : List Byte :=
  M ++ [0x80] ++ List.replicate (zeroBytes M.length) 0x00 ++ lengthBytes M.length

/-- NBLK: the padded message in blocks of 64 bytes (41_padding.md R150). -/
def blocks (M : List Byte) : Nat := (padded M).length / 64

/-- Padded byte j. -/
def byteAt (M : List Byte) (j : Nat) : Byte := (padded M).getD j 0

/-- Word t of the 16 words of block b, most significant byte first (20_memory.md R63). -/
def blockWord (M : List Byte) (b t : Nat) : Word :=
  byteAt M (64 * b + 4 * t) ++ byteAt M (64 * b + 4 * t + 1) ++ byteAt M (64 * b + 4 * t + 2)
    ++ byteAt M (64 * b + 4 * t + 3)

/-- s0 (42_schedule.md R171). -/
def s0 (x : Word) : Word := x.rotateRight 7 ^^^ x.rotateRight 18 ^^^ (x >>> 3)

/-- s1 (42_schedule.md R171). -/
def s1 (x : Word) : Word := x.rotateRight 17 ^^^ x.rotateRight 19 ^^^ (x >>> 10)

/-- The first n words of the schedule of block b (42_schedule.md R170, R171). -/
def scheduleUpTo (M : List Byte) (b : Nat) : Nat → List Word
  | 0 => []
  | n + 1 =>
    let w := scheduleUpTo M b n
    w ++ [if n < 16 then blockWord M b n
          else w.getD (n - 16) 0 + s0 (w.getD (n - 15) 0) + w.getD (n - 7) 0 + s1 (w.getD (n - 2) 0)]

/-- Schedule word t of block b. -/
def sched (M : List Byte) (b t : Nat) : Word := (scheduleUpTo M b (t + 1)).getD t 0

/-- One round (43_compression.md R191). -/
def round (v : WorkVars) (k w : Word) : WorkVars :=
  let S1 := v.e.rotateRight 6 ^^^ v.e.rotateRight 11 ^^^ v.e.rotateRight 25
  let ch := (v.e &&& v.f) ^^^ (~~~v.e &&& v.g)
  let T1 := v.h + S1 + ch + k + w
  let S0 := v.a.rotateRight 2 ^^^ v.a.rotateRight 13 ^^^ v.a.rotateRight 22
  let maj := (v.a &&& v.b) ^^^ (v.a &&& v.c) ^^^ (v.b &&& v.c)
  let T2 := S0 + maj
  { a := T1 + T2, b := v.a, c := v.b, d := v.c, e := v.d + T1, f := v.e, g := v.f, h := v.g }

/-- The working variables loaded from a hash state (43_compression.md R190). -/
def load (v : Vector Word 8) : WorkVars :=
  { a := v[0], b := v[1], c := v[2], d := v[3], e := v[4], f := v[5], g := v[6], h := v[7] }

/-- The working variables added back into a hash state (43_compression.md R192). -/
def addBack (v : Vector Word 8) (w : WorkVars) : Vector Word 8 :=
  #v[v[0] + w.a, v[1] + w.b, v[2] + w.c, v[3] + w.d, v[4] + w.e, v[5] + w.f, v[6] + w.g, v[7] + w.h]

/-- The working variables of block b after its first n rounds, from the hash state `v`. -/
def rounds (M : List Byte) (b : Nat) (v : Vector Word 8) : Nat → WorkVars
  | 0 => load v
  | n + 1 => round (rounds M b v n) (kRom[n]?.getD 0) (sched M b n)

/-- The hash state after the first b blocks (43_compression.md R192). -/
def hashUpTo (M : List Byte) : Nat → Vector Word 8
  | 0 => ivRom
  | b + 1 => addBack (hashUpTo M b) (rounds M b (hashUpTo M b) 64)

/-- The final hash state of M (44_sequencer_serialization.md R216). -/
def hash (M : List Byte) : Vector Word 8 := hashUpTo M (blocks M)

end Sys2Proof.Ref

namespace Sys2Proof.Machine

/-- The first n schedule words are those of block `blk` of M. -/
def State.schedFollows (s : State) (M : List Byte) (n : Nat) : Prop :=
  ∀ k : Fin 64, k.val < n → s.W[k] = Ref.sched M s.blk.toNat k.val

/-- The datapath holds what SHA-256 of M holds when the micro-operation `i` is next. -/
def State.follows (s : State) (M : List Byte) (i : Instr) : Prop :=
  match i with
  | .loadw t => s.H = Ref.hashUpTo M s.blk.toNat ∧ s.schedFollows M t.toNat
  | .expand16to31 t => s.H = Ref.hashUpTo M s.blk.toNat ∧ s.schedFollows M t.toNat
  | .expand32to63 t => s.H = Ref.hashUpTo M s.blk.toNat ∧ s.schedFollows M t.toNat
  | .initwv => s.H = Ref.hashUpTo M s.blk.toNat ∧ s.schedFollows M 64
  | .round t =>
    s.H = Ref.hashUpTo M s.blk.toNat ∧ s.schedFollows M 64 ∧
      s.wv = Ref.rounds M s.blk.toNat s.H t.toNat
  | .feedback => s.H = Ref.hashUpTo M s.blk.toNat ∧ s.wv = Ref.rounds M s.blk.toNat s.H 64
  | .nextblk => s.H = Ref.hashUpTo M (s.blk.toNat + 1)
  | .finish => s.H = Ref.hashUpTo M (s.blk.toNat + 1)
  | _ => False

/-- The state computes SHA-256 of M: while BUSY the message is M and the datapath is where SHA-256
of M is; in DONE the hash state is that of M. -/
def State.computes (s : State) (M : List Byte) : Prop :=
  match s.phase with
  | .idle => True
  | .framing => s.message = M ∧ s.H = ivRom
  | .perblock =>
    s.message = M ∧ ∃ i, decodeUop s.seq = .ok i ∧ s.follows M i
  | .done => s.H = Ref.hash M

end Sys2Proof.Machine
end

