-- ==== Sys2Proof/Certificates/Slice0/Obligations.lean ====
section
/-! DEFINITION. The statements for the provers. Each docstring names the rule of spec/ it formalises.
A statement with hypotheses has its witness in Sys2Proof/Tests/Slice0.lean, under the same name.
Where a statement gives a whole next state, it also says that the fields of the model's own stay: that
`hRdata` stands over a write or a micro-operation is the model's choice (log 7), and so are the list of
turns (log 4), the mark of a disturbed message and the counter of free values (log 8). -/

open Sys2Proof Sys2Proof.Machine

/-! Encodings. -/

/-- Words the spec writes out decode to what they stand for (30_encoding.md R103, R105;
95_test_vectors.md V30). -/
def Obligations.SpecWordsDecode : Prop :=
  decodeHtw 0x8000000001 = .ok (.start 0) ∧
  decodeHtw 0x0100000000 = .ok .rdStatus ∧
  decodeHtw 0x8400000003 = .ok (.wrLenLo 3) ∧
  decodeHtw 0x0F00000000 = .ok (.rdDigest 7) ∧
  decodeHtw 0x86FFFFFFFF = .ok (.wrReserved6to7 6 0xFFFFFFFF) ∧
  decodeHtw 0x80FFFFFFF0 = .ok (.nop 0xFFFFFFF) ∧
  decodeUop 0x53F = .ok (.round 63) ∧
  decodeUop 0x310 = .ok (.expand16to31 16)

/-- Decoding the word of a well-formed instruction gives it back, at every value of every operand
(30_encoding.md R91, R93, R100, R101). -/
def Obligations.EncodeThenDecode : Prop :=
  ∀ i : Instr, i.WellFormed → decode (encode i) = .ok i

/-- Encoding what a word decodes to gives the word back, the ignored DATA of a read set to 0, and what
is decoded is well formed (30_encoding.md R91, R92, R100, R101). -/
def Obligations.DecodeThenEncode : Prop :=
  ∀ (c : Code) (i : Instr), decode c = .ok i → i.WellFormed ∧ encode i = canonicalCode c

/-- An HTW is decoded by RSV, WE, WIDX and, for a CTRL write, CMD, and the decode is total where
RSV = 0 (30_encoding.md R92, R94). The fields are written as quotients and remainders of the word. -/
def Obligations.HtwClasses : Prop :=
  ∀ (w : Htw) (x v : Nat), x = w.toNat / 2 ^ 32 % 64 → v = w.toNat % 2 ^ 32 →
    (w.getLsbD 38 = true → decodeHtw w = .error .rsvSet) ∧
    (w.getLsbD 38 = false → w.getLsbD 39 = false →
      (x = 0 → decodeHtw w = .ok .rdCtrl) ∧
      (x = 1 → decodeHtw w = .ok .rdStatus) ∧
      (x = 2 → decodeHtw w = .ok .rdSrcLo) ∧
      (x = 3 → decodeHtw w = .ok .rdSrcHi) ∧
      (x = 4 → decodeHtw w = .ok .rdLenLo) ∧
      (x = 5 → decodeHtw w = .ok .rdLenHi) ∧
      (6 ≤ x → x ≤ 7 → decodeHtw w = .ok (.rdReserved6to7 (BitVec.ofNat 6 x))) ∧
      (8 ≤ x → x ≤ 15 → decodeHtw w = .ok (.rdDigest (BitVec.ofNat 3 (x - 8)))) ∧
      (16 ≤ x → x ≤ 31 → decodeHtw w = .ok (.rdReserved16to31 (BitVec.ofNat 6 x))) ∧
      (32 ≤ x → decodeHtw w = .ok (.rdReserved32to63 (BitVec.ofNat 6 x)))) ∧
    (w.getLsbD 38 = false → w.getLsbD 39 = true →
      (x = 0 →
        (v % 16 = 0 → decodeHtw w = .ok (.nop (BitVec.ofNat 28 (v / 16)))) ∧
        (v % 16 = 1 → decodeHtw w = .ok (.start (BitVec.ofNat 28 (v / 16)))) ∧
        (2 ≤ v % 16 → v % 16 ≤ 3 → decodeHtw w =
          .ok (.wrCtrlReserved2to3 (BitVec.ofNat 28 (v / 16)) (BitVec.ofNat 4 (v % 16)))) ∧
        (4 ≤ v % 16 → v % 16 ≤ 7 → decodeHtw w =
          .ok (.wrCtrlReserved4to7 (BitVec.ofNat 28 (v / 16)) (BitVec.ofNat 4 (v % 16)))) ∧
        (8 ≤ v % 16 → decodeHtw w =
          .ok (.wrCtrlReserved8toF (BitVec.ofNat 28 (v / 16)) (BitVec.ofNat 4 (v % 16))))) ∧
      (x = 1 → decodeHtw w = .ok (.wrStatus (BitVec.ofNat 32 v))) ∧
      (x = 2 → decodeHtw w = .ok (.wrSrcLo (BitVec.ofNat 32 v))) ∧
      (x = 3 → decodeHtw w = .ok (.wrSrcHi (BitVec.ofNat 32 v))) ∧
      (x = 4 → decodeHtw w = .ok (.wrLenLo (BitVec.ofNat 32 v))) ∧
      (x = 5 → decodeHtw w = .ok (.wrLenHi (BitVec.ofNat 32 v))) ∧
      (6 ≤ x → x ≤ 7 → decodeHtw w =
        .ok (.wrReserved6to7 (BitVec.ofNat 6 x) (BitVec.ofNat 32 v))) ∧
      (8 ≤ x → x ≤ 15 → decodeHtw w =
        .ok (.wrDigest (BitVec.ofNat 3 (x - 8)) (BitVec.ofNat 32 v))) ∧
      (16 ≤ x → x ≤ 31 → decodeHtw w =
        .ok (.wrReserved16to31 (BitVec.ofNat 6 x) (BitVec.ofNat 32 v))) ∧
      (32 ≤ x → decodeHtw w =
        .ok (.wrReserved32to63 (BitVec.ofNat 6 x) (BitVec.ofNat 32 v))))

/-- The UOP words the decoder refuses are exactly the reserved encodings (30_encoding.md R102); `c`,
`z` and `t` are CLASS, Z2 and T. -/
def Obligations.ReservedUopsRefused : Prop :=
  ∀ (u : Uop) (c z t : Nat), c = u.toNat / 256 → z = u.toNat / 64 % 4 → t = u.toNat % 64 →
    (decodeUop u = .error .reservedUop ↔
      c = 0 ∨ 9 ≤ c ∨ z ≠ 0 ∨ (c = 2 ∧ 15 < t) ∨ (c = 3 ∧ t < 16) ∨
        ((c = 1 ∨ c = 4 ∨ c = 6 ∨ c = 7 ∨ c = 8) ∧ t ≠ 0))

/-! The step. -/

/-- At the host's turn the step is the decoded transaction's meaning, on the state without that turn
(45_host_interface.md R230). -/
def Obligations.StepRunsTransaction : Prop :=
  ∀ (s : State) (w : Htw) (rest : List Turn) (i : Instr),
    s.turns = .host w :: rest → decodeHtw w = .ok i → step s = exec i (setTurns rest s)

/-- At the engine's turn, or when no turn is left, a BUSY engine runs the micro-operation that `seq`
holds (44_sequencer_serialization.md R214). -/
def Obligations.StepRunsMicroOperation : Prop :=
  ∀ (s : State) (i : Instr), s.busy = true → decodeUop s.seq = .ok i →
    (s.turns = [] → step s = exec i s) ∧
    (∀ rest, s.turns = .engine :: rest → step s = exec i (setTurns rest s))

/-- In IDLE and DONE the engine has no step: nothing changes (44_sequencer_serialization.md R214,
60_exceptions.md R281). That the model's step then answers the same state is log 5. -/
def Obligations.EngineWaits : Prop :=
  ∀ s : State, s.phase = .idle ∨ s.phase = .done →
    (s.turns = [] → step s = .next s) ∧
    (∀ rest, s.turns = .engine :: rest → step s = .next (setTurns rest s))

/-! The datapath. -/

/-- ROTR: bit i of the result is bit (i + n) mod 32 of x (40_datapath.md R120). -/
def Obligations.RotrMovesBits : Prop :=
  ∀ (x : Word) (n : Nat), 1 ≤ n → n ≤ 31 →
    (rotr x n).toNat = x.toNat / 2 ^ n ||| x.toNat * 2 ^ (32 - n) % 2 ^ 32 ∧
    ∀ i, i < 32 → (rotr x n).getLsbD i = x.getLsbD ((i + n) % 32)

/-- SHR is the floor of x / 2^n (40_datapath.md R121). -/
def Obligations.ShrIsFloor : Prop :=
  ∀ (x : Word) (n : Nat), (shr x n).toNat = x.toNat / 2 ^ n

/-- CH and MAJ by their definitions, and bit by bit: CH chooses, MAJ takes the majority (40_datapath.md R123, R124). -/
def Obligations.ChMajByBit : Prop :=
  (∀ e f g : Word, ch e f g = (e &&& f) ^^^ (~~~e &&& g)) ∧
  (∀ a b c : Word, maj a b c = (a &&& b) ^^^ (a &&& c) ^^^ (b &&& c)) ∧
  (∀ (e f g : Word) (i : Nat), i < 32 →
    (ch e f g).getLsbD i = if e.getLsbD i then f.getLsbD i else g.getLsbD i) ∧
  (∀ (a b c : Word) (i : Nat), i < 32 →
    (maj a b c).getLsbD i =
      decide (2 ≤ (a.getLsbD i).toNat + (b.getLsbD i).toNat + (c.getLsbD i).toNat))

/-- The four Σ/σ functions, by rotations of the word; the third term of s0 and of s1 is a shift
(40_datapath.md R125 to R128). -/
def Obligations.SigmaFunctions : Prop :=
  ∀ x : Word,
    bsig0 x = x.rotateRight 2 ^^^ x.rotateRight 13 ^^^ x.rotateRight 22 ∧
    bsig1 x = x.rotateRight 6 ^^^ x.rotateRight 11 ^^^ x.rotateRight 25 ∧
    ssig0 x = x.rotateRight 7 ^^^ x.rotateRight 18 ^^^ (x >>> 3) ∧
    ssig1 x = x.rotateRight 17 ^^^ x.rotateRight 19 ^^^ (x >>> 10)

/-- The ROMs hold the first 32 bits of the fractional parts of the cube and square roots of the first
primes (40_datapath.md R129, R130): with n the integer part of the root of p, 2^32 n + K[t] is the floor
of 2^32 times the root. -/
def Obligations.RomsAreRootsOfPrimes : Prop :=
  ∀ primes : List Nat, primes =
    [2, 3, 5, 7, 11, 13, 17, 19, 23, 29, 31, 37, 41, 43, 47, 53,
     59, 61, 67, 71, 73, 79, 83, 89, 97, 101, 103, 107, 109, 113, 127, 131,
     137, 139, 149, 151, 157, 163, 167, 173, 179, 181, 191, 193, 197, 199, 211, 223,
     227, 229, 233, 239, 241, 251, 257, 263, 269, 271, 277, 281, 283, 293, 307, 311] →
    (∀ t : Fin 64, ∃ n, n < 7 ∧
      (2 ^ 32 * n + (kRom[t]).toNat) ^ 3 ≤ 2 ^ 96 * primes.getD t.val 0 ∧
      2 ^ 96 * primes.getD t.val 0 < (2 ^ 32 * n + (kRom[t]).toNat + 1) ^ 3) ∧
    (∀ i : Fin 8, ∃ n, n < 5 ∧
      (2 ^ 32 * n + (ivRom[i]).toNat) ^ 2 ≤ 2 ^ 64 * primes.getD i.val 0 ∧
      2 ^ 64 * primes.getD i.val 0 < (2 ^ 32 * n + (ivRom[i]).toNat + 1) ^ 2)

/-! Padding. -/

/-- The padding quantities of an accepted length, with the source's count K = 8Z + 7 (41_padding.md
R150). -/
def Obligations.PaddingQuantities : Prop :=
  ∀ L Z K : Nat, L ≤ 2 ^ 61 - 1 → Z = Ref.zeroBytes L → K = 8 * Z + 7 →
    (Z : Int) = (55 - (L : Int)) % 64 ∧ Z ≤ 63 ∧
    blockCount L = (L + 8) / 64 + 1 ∧
    64 * blockCount L = L + 1 + Z + 8 ∧
    (∀ n, L + 9 ≤ 64 * n → blockCount L ≤ n) ∧
    (bitLength (BitVec.ofNat 64 L)).toNat = 8 * L ∧ 8 * L ≤ 2 ^ 64 - 8 ∧
    7 ≤ K ∧ K ≤ 511 ∧ K / 8 = Z ∧ 64 * blockCount L = L + 1 + K / 8 + 8 ∧
    blockCount L ≤ 2 ^ 55 + 1 ∧ blockCount (2 ^ 61 - 1) = 2 ^ 55 + 1 ∧
    blockCount L < 2 ^ 56

/-- The padded byte in its four cases, once FRAME has run on an accepted input (41_padding.md R151). -/
def Obligations.PaddedByteCases : Prop :=
  ∀ (s : State) (j P : Nat), s.accepted → s.framed → P = 64 * s.NBLK.toNat → j < P →
    s.LEN.toNat < P - 8 ∧
    (j < s.LEN.toNat → s.SRC.toNat + j < s.msgSize ∧
      padByte s j = .ok (s.mem.read (s.SRC.toNat + j))) ∧
    (j = s.LEN.toNat → padByte s j = .ok 0x80) ∧
    (s.LEN.toNat < j → j < P - 8 → padByte s j = .ok 0x00) ∧
    (P - 8 ≤ j → padByte s j =
      .ok (BitVec.ofNat 8 (s.BITLEN.toNat / 256 ^ (7 - (j - (P - 8))))))

/-- The padded bytes are those of the message followed by 0x80, Z zero bytes and the bit length, and
there are as many (41_padding.md R151, R150; 00_scope.md glossary). -/
def Obligations.PaddedByteIsStandard : Prop :=
  ∀ s : State, s.accepted → s.framed →
    (Ref.padded s.message).length = 64 * s.NBLK.toNat ∧
    ∀ j, j < 64 * s.NBLK.toNat → padByte s j = .ok (Ref.byteAt s.message j)

/-- FRAME (41_padding.md R153): its word; the whole next state; that neither value wraps for a length
below 2^61; that a BUSY engine runs it exactly in FRAMING; and that it is the first micro-operation after
every accepted START. What FRAME does outside FRAMING or on a length that NBLK's 56 bits do not hold,
states no run reaches, is the model's choice (log 16). -/
def Obligations.FrameResult : Prop :=
  decodeUop 0x100 = .ok .frame ∧
  (∀ s : State, exec .frame s = .next { s with
    BITLEN := BitVec.ofNat 64 (8 * s.LEN.toNat)
    NBLK := BitVec.ofNat 56 ((s.LEN.toNat + 8) / 64 + 1)
    blk := 0
    phase := .perblock
    seq := 0x200 }) ∧
  (∀ s : State, s.LEN.toNat < 2 ^ 61 →
    (BitVec.ofNat 64 (8 * s.LEN.toNat)).toNat = 8 * s.LEN.toNat ∧
    (BitVec.ofNat 56 ((s.LEN.toNat + 8) / 64 + 1)).toNat = (s.LEN.toNat + 8) / 64 + 1) ∧
  (∀ s : State, Invariant s → s.busy = true →
    (decodeUop s.seq = .ok .frame ↔ s.phase = .framing)) ∧
  (∀ (s t : State) (g : BitVec 28), s.busy = false → s.accepted → exec (.start g) s = .next t →
    t.phase = .framing ∧ t.busy = true ∧ decodeUop t.seq = .ok .frame ∧
      engineTurn t = exec .frame t)

/-! The schedule. -/

/-- LOADW t (42_schedule.md R170): its word; on an accepted, framed input the four padded bytes exist, and the
next state differs only in W[t] and `seq`. -/
def Obligations.LoadwResult : Prop :=
  ∀ (s : State) (t : BitVec 6) (j : Nat), t.toNat < 16 → s.accepted → s.framed →
    s.blk.toNat < s.NBLK.toNat → j = 64 * s.blk.toNat + 4 * t.toNat →
    decodeUop (BitVec.ofNat 12 (0x200 + t.toNat)) = .ok (.loadw t) ∧
    ∃ b0 b1 b2 b3, padByte s j = .ok b0 ∧ padByte s (j + 1) = .ok b1 ∧
      padByte s (j + 2) = .ok b2 ∧ padByte s (j + 3) = .ok b3 ∧
      exec (.loadw t) s = .next { s with
        W := s.W.set t.toNat (b0 ++ b1 ++ b2 ++ b3) t.isLt
        seq := if t.toNat < 15 then BitVec.ofNat 12 (0x200 + t.toNat + 1) else 0x310 }

/-- EXPAND t, in both rows of the table (42_schedule.md R171): its word; the next state differs only in W[t] and
`seq`. -/
def Obligations.ExpandResult : Prop :=
  ∀ (s : State) (t : BitVec 6) (i : Instr), 16 ≤ t.toNat →
    (t.toNat < 32 ∧ i = .expand16to31 t ∨ 32 ≤ t.toNat ∧ i = .expand32to63 t) →
    decodeUop (BitVec.ofNat 12 (0x300 + t.toNat)) = .ok i ∧
    exec i s = .next { s with
      W := s.W.set t.toNat
        (s.W[t.toNat - 16]'(by omega) + Ref.s0 (s.W[t.toNat - 15]'(by omega)) +
          s.W[t.toNat - 7]'(by omega) + Ref.s1 (s.W[t.toNat - 2]'(by omega))) t.isLt
      seq := if t.toNat < 63 then BitVec.ofNat 12 (0x300 + t.toNat + 1) else 0x400 }

/-- LOADW reads no byte of message memory outside the message (20_memory.md R70): a memory that agrees
on the message gives the same next state, but for the memory itself. -/
def Obligations.LoadwReadsOnlyTheMessage : Prop :=
  ∀ (s u : State) (m : Memory) (t : BitVec 6),
    (∀ a, s.inMessage a = true → s.mem.read a = m.read a) → exec (.loadw t) s = .next u →
    exec (.loadw t) { s with mem := m } = .next { u with mem := m }

/-- A reserved encoding is a fault of the model (30_encoding.md R102; 93_implementation_defined.md I6):
LOADW with T above 15, EXPAND with T below 16, and the step of a BUSY engine whose `seq` holds a reserved
word. That EXPAND of one row of the opcode table faults on an index of the other row, a term that no word
decodes to, is the model's choice (log 25). -/
def Obligations.ReservedUopFaults : Prop :=
  ∀ s : State,
    (∀ t : BitVec 6, 16 ≤ t.toNat → exec (.loadw t) s = .fault .reservedUop) ∧
    (∀ t : BitVec 6, t.toNat < 16 →
      exec (.expand16to31 t) s = .fault .reservedUop ∧
      exec (.expand32to63 t) s = .fault .reservedUop) ∧
    (s.busy = true → decodeUop s.seq = .error .reservedUop →
      (s.turns = [] → step s = .fault .reservedUop) ∧
      (∀ rest, s.turns = .engine :: rest → step s = .fault .reservedUop)) ∧
    (∀ t : BitVec 6, 32 ≤ t.toNat → exec (.expand16to31 t) s = .fault .reservedUop) ∧
    (∀ t : BitVec 6, 16 ≤ t.toNat → t.toNat < 32 →
      exec (.expand32to63 t) s = .fault .reservedUop)

/-- LOADW faults where one of the four bytes it needs is a message byte with no address in message
memory; otherwise where one of them is no padded byte; otherwise it answers a next state. The model's
choice for states no run reaches, log 15. -/
def Obligations.LoadwFaultsOutside : Prop :=
  ∀ (s : State) (t : BitVec 6) (j : Nat), t.toNat < 16 → j = 64 * s.blk.toNat + 4 * t.toNat →
    ((∃ k, k < 4 ∧ j + k < s.LEN.toNat ∧ s.msgSize ≤ s.SRC.toNat + (j + k)) →
      exec (.loadw t) s = .fault .msgAddress) ∧
    ((∀ k, k < 4 → j + k < s.LEN.toNat → s.SRC.toNat + (j + k) < s.msgSize) →
      ((∃ k, k < 4 ∧ s.LEN.toNat < j + k ∧ 64 * s.NBLK.toNat ≤ j + k) →
        exec (.loadw t) s = .fault .padIndex) ∧
      ((∀ k, k < 4 → s.LEN.toNat < j + k → j + k < 64 * s.NBLK.toNat) →
        ∃ u, exec (.loadw t) s = .next u))

/-! Compression. -/

/-- INITWV (43_compression.md R190): its word; the next state differs only in a..h and `seq`. -/
def Obligations.InitwvResult : Prop :=
  decodeUop 0x400 = .ok .initwv ∧
  ∀ s : State, exec .initwv s = .next { s with
    wv := { a := s.H[0], b := s.H[1], c := s.H[2], d := s.H[3],
            e := s.H[4], f := s.H[5], g := s.H[6], h := s.H[7] }
    seq := 0x500 }

/-- ROUND t (43_compression.md R191): its word; the next state differs only in a..h, all read before the round,
and `seq`. -/
def Obligations.RoundResult : Prop :=
  ∀ (s : State) (t : BitVec 6) (S1 chv T1 S0 majv T2 : Word),
    S1 = s.wv.e.rotateRight 6 ^^^ s.wv.e.rotateRight 11 ^^^ s.wv.e.rotateRight 25 →
    chv = (s.wv.e &&& s.wv.f) ^^^ (~~~s.wv.e &&& s.wv.g) →
    T1 = s.wv.h + S1 + chv + kRom[t.toNat]'(t.isLt) + s.W[t.toNat]'(t.isLt) →
    S0 = s.wv.a.rotateRight 2 ^^^ s.wv.a.rotateRight 13 ^^^ s.wv.a.rotateRight 22 →
    majv = (s.wv.a &&& s.wv.b) ^^^ (s.wv.a &&& s.wv.c) ^^^ (s.wv.b &&& s.wv.c) →
    T2 = S0 + majv →
    decodeUop (BitVec.ofNat 12 (0x500 + t.toNat)) = .ok (.round t) ∧
    exec (.round t) s = .next { s with
      wv := { a := T1 + T2, b := s.wv.a, c := s.wv.b, d := s.wv.c,
              e := s.wv.d + T1, f := s.wv.e, g := s.wv.f, h := s.wv.g }
      seq := if t.toNat < 63 then BitVec.ofNat 12 (0x500 + t.toNat + 1) else 0x600 }

/-- FEEDBACK (43_compression.md R192): its word; eight sums modulo 2^32, no carry between them, and the choice of
NEXTBLK or FINISH on integers; nothing else changes. -/
def Obligations.FeedbackResult : Prop :=
  decodeUop 0x600 = .ok .feedback ∧
  ∀ s : State, exec .feedback s = .next { s with
    H := #v[s.H[0] + s.wv.a, s.H[1] + s.wv.b, s.H[2] + s.wv.c, s.H[3] + s.wv.d,
            s.H[4] + s.wv.e, s.H[5] + s.wv.f, s.H[6] + s.wv.g, s.H[7] + s.wv.h]
    seq := if s.blk.toNat + 1 < s.NBLK.toNat then 0x700 else 0x800 }

/-! The sequencer. -/

/-- NEXTBLK (44_sequencer_serialization.md R211): its word; only `blk` and `seq` change, and under its
precondition `blk` does not wrap. -/
def Obligations.NextblkResult : Prop :=
  decodeUop 0x700 = .ok .nextblk ∧
  ∀ s : State, s.blk.toNat + 1 < s.NBLK.toNat →
    exec .nextblk s = .next { s with blk := BitVec.ofNat 56 (s.blk.toNat + 1), seq := 0x200 } ∧
    (BitVec.ofNat 56 (s.blk.toNat + 1)).toNat = s.blk.toNat + 1

/-- FINISH (44_sequencer_serialization.md R212), where the host kept the duty of
70_reset_and_hazards.md R311: its word; only the phase changes; STATUS, `evt` and DIGESTn follow; and the engine
has no further step. -/
def Obligations.FinishResult : Prop :=
  decodeUop 0x800 = .ok .finish ∧
  ∀ s : State, s.msgDisturbed = false → s.errcode = 0 →
    ∃ t, exec .finish s = .next t ∧ t = { s with phase := .done } ∧
      t.statusWord = 0x00000032 ∧ t.evt = true ∧
      (∀ n : BitVec 3, t.digestReg n = s.H[n.toNat]'(n.isLt)) ∧
      engineTurn t = .next t

/-- FINISH where the host wrote a byte of the message while BUSY: the final H is free, and all else is
as R212 says (70_reset_and_hazards.md R311, 93_implementation_defined.md I1). That H is drawn at FINISH
is the model's choice, log 8. -/
def Obligations.FinishDisturbed : Prop :=
  ∀ s : State, s.msgDisturbed = true →
    ∃ t, exec .finish s = .next t ∧ (∀ n : Fin 8, t.H[n] = Config.freeWord (s.draws + n.val)) ∧
      t = { s with phase := .done, H := t.H, draws := s.draws + 8 }

/-- The digest bytes (44_sequencer_serialization.md R215; 20_memory.md R64), which the host reads from
DIGEST0..7 in DONE. -/
def Obligations.DigestBytes : Prop :=
  ∀ (s : State) (k : Fin 32),
    (digestByte s.H k).toNat = (s.H[k.val / 4]).toNat / 256 ^ (3 - k.val % 4) % 256 ∧
    digestByte s.H k = (s.H[k.val / 4]).extractLsb' (24 - 8 * (k.val % 4)) 8 ∧
    (s.phase = .done → s.digestReg (BitVec.ofNat 3 (k.val / 4)) = s.H[k.val / 4])

/-! Host reads. -/

/-- RD CTRL and RD of a reserved slot return 0 and change nothing else (45_host_interface.md R231,
R235): each instruction, and each word that the rules' WE and WIDX give. -/
def Obligations.ReadCtrlAndReserved : Prop :=
  (∀ (s : State) (i : Instr),
    (i = .rdCtrl ∨ (∃ x, i = .rdReserved6to7 x) ∨ (∃ x, i = .rdReserved16to31 x) ∨
      ∃ x, i = .rdReserved32to63 x) →
    exec i s = .next { s with hRdata := 0 }) ∧
  (∀ (s : State) (w : Htw) (x : Nat), x = w.toNat / 2 ^ 32 % 64 → w.getLsbD 38 = false →
    w.getLsbD 39 = false → x = 0 ∨ x = 6 ∨ x = 7 ∨ 16 ≤ x →
    ∃ i, decodeHtw w = .ok i ∧ exec i s = .next { s with hRdata := 0 })

/-- RD STATUS (45_host_interface.md R232): its word; the fields at their places, nothing else changed, and only
the six values of 30_encoding.md R96 in a state that has the invariant. -/
def Obligations.ReadStatus : Prop :=
  decodeHtw 0x0100000000 = .ok .rdStatus ∧
  ∀ s : State, ∃ v : Word, exec .rdStatus s = .next { s with hRdata := v } ∧
    v.toNat = (if s.phase = .framing ∨ s.phase = .perblock then 1 else 0) +
      (if s.phase = .done then 2 else 0) + (if s.errcode ≠ 0 then 4 else 0) +
      16 * (match s.phase with | .idle => 0 | .framing => 1 | .perblock => 2 | .done => 3) +
      256 * s.errcode.toNat ∧
    (Invariant s → v = 0x00000000 ∨ v = 0x00000011 ∨ v = 0x00000021 ∨ v = 0x00000032 ∨
      v = 0x00000104 ∨ v = 0x00000204)

/-- STATUS in each state that can occur (30_encoding.md R96). -/
def Obligations.StatusTable : Prop :=
  ∀ s : State, Invariant s →
    (s.phase = .idle ∧ s.errcode = 0 ∧ s.statusWord = 0x00000000) ∨
    (s.phase = .framing ∧ s.errcode = 0 ∧ s.statusWord = 0x00000011) ∨
    (s.phase = .perblock ∧ s.errcode = 0 ∧ s.statusWord = 0x00000021) ∨
    (s.phase = .done ∧ s.errcode = 0 ∧ s.statusWord = 0x00000032) ∨
    (s.phase = .idle ∧ s.errcode = 1 ∧ s.statusWord = 0x00000104) ∨
    (s.phase = .idle ∧ s.errcode = 2 ∧ s.statusWord = 0x00000204)

/-- RD SRC_LO, SRC_HI, LEN_LO, LEN_HI (45_host_interface.md R233): their words and results. -/
def Obligations.ReadOperands : Prop :=
  (decodeHtw 0x0200000000 = .ok .rdSrcLo ∧ decodeHtw 0x0300000000 = .ok .rdSrcHi ∧
    decodeHtw 0x0400000000 = .ok .rdLenLo ∧ decodeHtw 0x0500000000 = .ok .rdLenHi) ∧
  ∀ s : State,
    exec .rdSrcLo s = .next { s with hRdata := BitVec.ofNat 32 (s.SRC.toNat % 2 ^ 32) } ∧
    exec .rdSrcHi s = .next { s with hRdata := BitVec.ofNat 32 (s.SRC.toNat / 2 ^ 32) } ∧
    exec .rdLenLo s = .next { s with hRdata := BitVec.ofNat 32 (s.LEN.toNat % 2 ^ 32) } ∧
    exec .rdLenHi s = .next { s with hRdata := BitVec.ofNat 32 (s.LEN.toNat / 2 ^ 32) }

/-- RD DIGESTn: its word; H[n] in DONE, else 0 (45_host_interface.md R234; 10_state.md R27). -/
def Obligations.ReadDigest : Prop :=
  ∀ (s : State) (n : BitVec 3),
    decodeHtw (BitVec.ofNat 40 (0x0800000000 + n.toNat * 0x0100000000)) = .ok (.rdDigest n) ∧
    exec (.rdDigest n) s = .next { s with
      hRdata := if s.phase = .done then s.H[n.toNat]'(n.isLt) else 0 }

/-! Host writes. -/

/-- WR SRC_LO, SRC_HI, LEN_LO, LEN_HI: their words; dropped while BUSY; otherwise one half is replaced,
and the other half and all else stay; LEN_HI of 0x20000000 or more makes a length that a later START
rejects (45_host_interface.md R236 to R239). -/
def Obligations.OperandWrites : Prop :=
  (∀ v : Word,
    decodeHtw (BitVec.ofNat 40 (0x8200000000 + v.toNat)) = .ok (.wrSrcLo v) ∧
    decodeHtw (BitVec.ofNat 40 (0x8300000000 + v.toNat)) = .ok (.wrSrcHi v) ∧
    decodeHtw (BitVec.ofNat 40 (0x8400000000 + v.toNat)) = .ok (.wrLenLo v) ∧
    decodeHtw (BitVec.ofNat 40 (0x8500000000 + v.toNat)) = .ok (.wrLenHi v)) ∧
  ∀ (s : State) (v : Word),
    (s.busy = true →
      exec (.wrSrcLo v) s = .next s ∧ exec (.wrSrcHi v) s = .next s ∧
      exec (.wrLenLo v) s = .next s ∧ exec (.wrLenHi v) s = .next s) ∧
    (s.busy = false →
      exec (.wrSrcLo v) s = .next { s with
        SRC := BitVec.ofNat 64 (s.SRC.toNat / 2 ^ 32 * 2 ^ 32 + v.toNat) } ∧
      exec (.wrSrcHi v) s = .next { s with
        SRC := BitVec.ofNat 64 (v.toNat * 2 ^ 32 + s.SRC.toNat % 2 ^ 32) } ∧
      exec (.wrLenLo v) s = .next { s with
        LEN := BitVec.ofNat 64 (s.LEN.toNat / 2 ^ 32 * 2 ^ 32 + v.toNat) } ∧
      exec (.wrLenHi v) s = .next { s with
        LEN := BitVec.ofNat 64 (v.toNat * 2 ^ 32 + s.LEN.toNat % 2 ^ 32) } ∧
      ∀ (t : State) (g : BitVec 28), exec (.wrLenHi v) s = .next t →
        (2 ^ 61 ≤ t.LEN.toNat ↔ 0x20000000 ≤ v.toNat) ∧
        (0x20000000 ≤ v.toNat →
          exec (.start g) t = .next { t with errcode := 1, phase := .idle }))

/-- An operand register reads back what was written to it while BUSY = 0 (10_state.md R26;
45_host_interface.md R233, R236 to R239). -/
def Obligations.OperandReadsBack : Prop :=
  ∀ (s t u : State) (v : Word) (wr rd : Instr), s.busy = false →
    ((wr = .wrSrcLo v ∧ rd = .rdSrcLo) ∨ (wr = .wrSrcHi v ∧ rd = .rdSrcHi) ∨
      (wr = .wrLenLo v ∧ rd = .rdLenLo) ∨ (wr = .wrLenHi v ∧ rd = .rdLenHi)) →
    exec wr s = .next t → exec rd t = .next u → u.hRdata = v

/-- Writes without effect, in any phase: NOP, reserved command codes, STATUS, DIGESTn, reserved slots
(45_host_interface.md R242 to R245): each instruction, and each word that the rules' WE, WIDX and CMD
give. -/
def Obligations.WritesWithoutEffect : Prop :=
  (∀ (s : State) (i : Instr),
    ((∃ g, i = .nop g) ∨ (∃ g c, i = .wrCtrlReserved2to3 g c) ∨
      (∃ g c, i = .wrCtrlReserved4to7 g c) ∨ (∃ g c, i = .wrCtrlReserved8toF g c) ∨
      (∃ v, i = .wrStatus v) ∨ (∃ n v, i = .wrDigest n v) ∨ (∃ x v, i = .wrReserved6to7 x v) ∨
      (∃ x v, i = .wrReserved16to31 x v) ∨ ∃ x v, i = .wrReserved32to63 x v) →
    exec i s = .next s) ∧
  (∀ (s : State) (w : Htw) (x : Nat), x = w.toNat / 2 ^ 32 % 64 → w.getLsbD 38 = false →
    w.getLsbD 39 = true → (x = 0 ∧ w.toNat % 16 ≠ 1) ∨ x = 1 ∨ 6 ≤ x →
    ∃ i, decodeHtw w = .ok i ∧ exec i s = .next s)

/-! START and its rejection. -/

/-- START while BUSY = 0 (45_host_interface.md R240; 60_exceptions.md R271): its word; the two rejections
in their order, and the acceptance; all that each changes, and STATUS, `evt` and DIGESTn after it. Of
the model's own mark of a disturbed message (log 8) it says nothing on acceptance. -/
def Obligations.StartWhileIdle : Prop :=
  (∀ g : BitVec 28, decodeHtw (BitVec.ofNat 40 (0x8000000001 + 16 * g.toNat)) = .ok (.start g)) ∧
  ∀ (s : State) (g : BitVec 28) (L : Nat), s.busy = false → L = s.LEN.toNat →
    (2 ^ 61 ≤ L → ∃ t, exec (.start g) s = .next t ∧ t = { s with errcode := 1, phase := .idle } ∧
      t.statusWord = 0x00000104 ∧ t.evt = true ∧ ∀ n, t.digestReg n = 0) ∧
    (L < 2 ^ 61 → 0 < L → s.msgSize < s.SRC.toNat + L →
      ∃ t, exec (.start g) s = .next t ∧ t = { s with errcode := 2, phase := .idle } ∧
        t.statusWord = 0x00000204 ∧ t.evt = true ∧ ∀ n, t.digestReg n = 0) ∧
    (L < 2 ^ 61 → L = 0 ∨ s.SRC.toNat + L ≤ s.msgSize →
      ∃ t, exec (.start g) s = .next t ∧
        t = { s with errcode := 0, H := ivRom, phase := .framing, seq := 0x100,
                     msgDisturbed := t.msgDisturbed } ∧
        t.statusWord = 0x00000011 ∧ t.evt = false ∧ ∀ n, t.digestReg n = 0)

/-- START, whatever its ignored bits, while BUSY has no effect (45_host_interface.md R241). -/
def Obligations.StartWhileBusy : Prop :=
  (∀ g : BitVec 28, decodeHtw (BitVec.ofNat 40 (0x8000000001 + 16 * g.toNat)) = .ok (.start g)) ∧
  ∀ (s : State) (g : BitVec 28), s.busy = true → exec (.start g) s = .next s

/-- Only a START taken while BUSY = 0 and reset change errcode, and reset clears it (60_exceptions.md
R273, R274; 10_state.md R24). -/
def Obligations.OnlyStartAndResetSetErrcode : Prop :=
  ∀ s t : State, step s = .next t → t.errcode ≠ s.errcode →
    (∃ w rest g, s.turns = .host w :: rest ∧ decodeHtw w = .ok (.start g) ∧ s.busy = false) ∨
    (∃ rest, s.turns = .rst :: rest ∧ t.errcode = 0)

/-- `evt` is DONE or ERR of STATUS; it is set by FINISH and by a rejected START alone, and cleared by
an accepted START and by reset alone (60_exceptions.md R275; 10_state.md R38). -/
def Obligations.EvtRule : Prop :=
  ∀ s t : State, step s = .next t →
    t.evt = (t.statusWord.getLsbD 1 || t.statusWord.getLsbD 2) ∧
    (s.evt = false → t.evt = true →
      (s.busy = true ∧ decodeUop s.seq = .ok .finish ∧ t.phase = .done) ∨
      (∃ w rest g, s.turns = .host w :: rest ∧ decodeHtw w = .ok (.start g) ∧
        t.phase = .idle ∧ t.errcode ≠ 0)) ∧
    (s.evt = true → t.evt = false →
      (∃ w rest g, s.turns = .host w :: rest ∧ decodeHtw w = .ok (.start g) ∧
        t.phase = .framing) ∨
      (∃ rest, s.turns = .rst :: rest))

/-- A word with RSV = 1 is no transaction: its row of the table and the host's turn that issues it are
refused (30_encoding.md R92). -/
def Obligations.RsvIsRefused : Prop :=
  ∀ s : State,
    (∀ we x v, exec (.invalidRsv we x v) s = .refused .notATransaction) ∧
    (∀ w rest, s.turns = .host w :: rest → w.getLsbD 38 = true →
      step s = .refused .notATransaction)

/-! Whole-machine rules. -/

/-- The phases move as 44_sequencer_serialization.md R210 says, and in no other way. -/
def Obligations.PhaseMoves : Prop :=
  ∀ s t : State, Invariant s → step s = .next t →
    (t.phase = s.phase ∧ (s.phase = .perblock → t.blk = s.blk)) ∨
    ((s.phase = .idle ∨ s.phase = .done) ∧ t.phase = .framing ∧ s.accepted ∧
      ∃ w rest g, s.turns = .host w :: rest ∧ decodeHtw w = .ok (.start g)) ∨
    ((s.phase = .idle ∨ s.phase = .done) ∧ t.phase = .idle ∧ t.errcode ≠ 0 ∧ ¬s.accepted ∧
      ∃ w rest g, s.turns = .host w :: rest ∧ decodeHtw w = .ok (.start g)) ∨
    (s.phase = .framing ∧ s.seq = 0x100 ∧ t.phase = .perblock ∧ t.blk = 0) ∨
    (s.phase = .perblock ∧ decodeUop s.seq = .ok .nextblk ∧ s.blk.toNat + 1 < s.NBLK.toNat ∧
      t.phase = .perblock ∧ t.blk.toNat = s.blk.toNat + 1) ∨
    (s.phase = .perblock ∧ decodeUop s.seq = .ok .finish ∧ s.blk.toNat + 1 = s.NBLK.toNat ∧
      t.phase = .done) ∨
    (t.phase = .idle ∧ t.errcode = 0 ∧ ∃ rest, s.turns = .rst :: rest)

/-- No instruction writes message memory, changes its size, or takes a turn (20_memory.md R62). -/
def Obligations.MemoryFrame : Prop :=
  ∀ (i : Instr) (s t : State), exec i s = .next t →
    (∀ a, t.mem.read a = s.mem.read a) ∧ t.mem = s.mem ∧ t.msgSize = s.msgSize ∧
      t.turns = s.turns

/-- What a host transaction leaves unchanged: the internal registers always; while BUSY, everything
but the value returned (45_host_interface.md R230, R241; 70_reset_and_hazards.md R313). That a write
leaves the value last returned standing is the model's choice, log 7. -/
def Obligations.HostTransactionFrame : Prop :=
  ∀ (w : Htw) (i : Instr) (s t : State), decodeHtw w = .ok i → exec i s = .next t →
    (t.wv = s.wv ∧ t.W = s.W ∧ t.blk = s.blk ∧ t.BITLEN = s.BITLEN ∧ t.NBLK = s.NBLK) ∧
    (w.getLsbD 39 = false → t = { s with hRdata := t.hRdata }) ∧
    (w.getLsbD 39 = true → t.hRdata = s.hRdata) ∧
    (s.busy = true → t = { s with hRdata := t.hRdata })

/-- What a micro-operation leaves unchanged: errcode, SRC and LEN (10_state.md R24, R26); and, by the
model's choice, the value the host has read (log 7) and the mark of a disturbed message (log 8). -/
def Obligations.MicroOperationFrame : Prop :=
  ∀ (u : Uop) (i : Instr) (s t : State), decodeUop u = .ok i → exec i s = .next t →
    t.errcode = s.errcode ∧ t.SRC = s.SRC ∧ t.LEN = s.LEN ∧ t.hRdata = s.hRdata ∧
      t.msgDisturbed = s.msgDisturbed

/-- SRC and LEN are stable while BUSY, whatever the agents do, but for reset (10_state.md R26;
70_reset_and_hazards.md R313). -/
def Obligations.OperandsStableWhileBusy : Prop :=
  ∀ s t : State, s.busy = true → step s = .next t →
    (t.SRC = s.SRC ∧ t.LEN = s.LEN) ∨ ∃ rest, s.turns = .rst :: rest

/-- The host cannot tell apart two states that agree on phase, errcode, SRC, LEN, MSG_SIZE, the value
last returned and, in DONE, H: any transaction returns the same, and the states after it agree on all of
these and on `evt` (10_state.md R36). -/
def Obligations.InternalStateIsHidden : Prop :=
  ∀ (w : Htw) (i : Instr) (s1 s2 t1 t2 : State), decodeHtw w = .ok i →
    s1.phase = s2.phase → s1.errcode = s2.errcode → s1.SRC = s2.SRC → s1.LEN = s2.LEN →
    s1.msgSize = s2.msgSize → s1.hRdata = s2.hRdata → (s1.phase = .done → s1.H = s2.H) →
    exec i s1 = .next t1 → exec i s2 = .next t2 →
    t1.hRdata = t2.hRdata ∧ t1.phase = t2.phase ∧ t1.errcode = t2.errcode ∧ t1.SRC = t2.SRC ∧
      t1.LEN = t2.LEN ∧ t1.msgSize = t2.msgSize ∧ (t1.phase = .done → t1.H = t2.H) ∧ t1.evt = t2.evt

/-- What reset leaves, where the spec gives a value (10_state.md R39; 70_reset_and_hazards.md R300). -/
def Obligations.ResetState : Prop :=
  State.reset.phase = .idle ∧ State.reset.errcode = 0 ∧ State.reset.SRC = 0 ∧
  State.reset.LEN = 0 ∧ State.reset.statusWord = 0 ∧ State.reset.evt = false ∧
  (∀ n, State.reset.digestReg n = 0) ∧ exec .rdCtrl State.reset = .next State.reset

/-- Reset at any moment (70_reset_and_hazards.md R300, R301): the visible state is that after reset,
and message memory is unchanged. -/
def Obligations.ResetAtAnyMoment : Prop :=
  ∀ (s : State) (rest : List Turn), s.turns = .rst :: rest →
    ∃ t, step s = .next t ∧ t.phase = .idle ∧ t.errcode = 0 ∧ t.SRC = 0 ∧ t.LEN = 0 ∧
      t.statusWord = 0 ∧ t.evt = false ∧ (∀ n, t.digestReg n = 0) ∧
      (∀ a, t.mem.read a = s.mem.read a) ∧ t.msgSize = s.msgSize ∧ t.turns = rest ∧
      engineTurn t = .next t

/-- The host writes a byte of message memory: that byte and no other changes, and of the machine only
the mark of a disturbed message, which is set exactly by a write of a message byte while BUSY
(70_reset_and_hazards.md R311, R317; the mark is log 8). An address of MSG_SIZE or more faults
(log 14). -/
def Obligations.HostWritesMemory : Prop :=
  ∀ (s : State) (addr : Dword) (b : Byte) (rest : List Turn),
    s.turns = .memWrite addr b :: rest → s.mem.wf = true →
    (s.msgSize ≤ addr.toNat → step s = .fault .msgAddress) ∧
    (addr.toNat < s.msgSize → ∃ t, step s = .next t ∧ t.mem.read addr.toNat = b ∧
      (∀ a, a ≠ addr.toNat → t.mem.read a = s.mem.read a) ∧
      (t.msgDisturbed = true ↔ s.msgDisturbed = true ∨ (s.busy = true ∧
        s.SRC.toNat ≤ addr.toNat ∧ addr.toNat < s.SRC.toNat + s.LEN.toNat)) ∧
      t = { s with turns := rest, mem := t.mem, msgDisturbed := t.msgDisturbed })

/-- The pseudo-instructions as the transactions they expand to, and the POLL loop: RD STATUS, again
while bit 0 of the value read is 1 (30_encoding.md R104). That the engine has one turn between two
reads of the loop is log 6. -/
def Obligations.PseudoInstructions : Prop :=
  (∀ v : Dword, expandPseudo (.wr64Src v) =
    [.host (BitVec.ofNat 40 (0x8200000000 + v.toNat % 2 ^ 32)),
     .host (BitVec.ofNat 40 (0x8300000000 + v.toNat / 2 ^ 32))]) ∧
  (∀ v : Dword, expandPseudo (.wr64Len v) =
    [.host (BitVec.ofNat 40 (0x8400000000 + v.toNat % 2 ^ 32)),
     .host (BitVec.ofNat 40 (0x8500000000 + v.toNat / 2 ^ 32))]) ∧
  expandPseudo .poll = [.poll] ∧
  expandPseudo .rdDigest =
    [.host 0x0800000000, .host 0x0900000000, .host 0x0A00000000, .host 0x0B00000000,
     .host 0x0C00000000, .host 0x0D00000000, .host 0x0E00000000, .host 0x0F00000000] ∧
  (∀ src len : Dword, expandPseudo (.digest src len) =
    expandPseudo (.wr64Src src) ++ expandPseudo (.wr64Len len) ++
      [.host 0x8000000001] ++ expandPseudo .poll ++ [.host 0x0100000000] ++
      expandPseudo .rdDigest) ∧
  (∀ (s : State) (rest : List Turn), s.turns = .poll :: rest →
    (s.statusWord.getLsbD 0 = false →
      step s = .next { s with turns := rest, hRdata := s.statusWord }) ∧
    (s.statusWord.getLsbD 0 = true →
      step s = .next { s with turns := .engine :: .poll :: rest, hRdata := s.statusWord }))

/-! Invariants, and the computation as a whole. -/

/-- The invariant holds right after reset. -/
def Obligations.ResetHasInv : Prop := Invariant State.reset

/-- Every step keeps the invariant, from any state that has it: memory in canonical form and inside
MSG_SIZE, the legal combinations of phase and errcode, BUSY only on an accepted input, `seq` a
micro-operation that fits the phase and the block, and the framing registers (10_state.md R24, R34,
R35; 60_exceptions.md R273). -/
def Obligations.StepKeepsInv : Prop :=
  ∀ s t : State, Invariant s → step s = .next t → Invariant t

/-- The machine stops only on a word with RSV = 1 or a host write outside message memory: the engine
never faults, and no transaction fails (60_exceptions.md R270; 44_sequencer_serialization.md R214). -/
def Obligations.OnlyTheHostCanStopIt : Prop :=
  ∀ s : State, Invariant s →
    (∃ t, step s = .next t) ∨
    (∃ w rest, s.turns = .host w :: rest ∧ w.getLsbD 38 = true) ∨
    (∃ addr b rest, s.turns = .memWrite addr b :: rest ∧ s.msgSize ≤ addr.toNat)

/-- Each engine step of a computation takes one from the count of 44_sequencer_serialization.md R213,
which starts at 1 + 131 * NBLK, and no other agent's step changes it (70_reset_and_hazards.md R321). -/
def Obligations.StepsCountDown : Prop :=
  ∀ s t : State, Invariant s → s.busy = true → step s = .next t →
    (s.phase = .framing → s.stepsLeft = 1 + 131 * ((s.LEN.toNat + 8) / 64 + 1)) ∧
    0 < s.stepsLeft ∧
    ((s.turns = [] ∨ ∃ rest, s.turns = .engine :: rest) → t.stepsLeft + 1 = s.stepsLeft) ∧
    (∀ turn rest, s.turns = turn :: rest → turn ≠ .engine → turn ≠ .rst →
      t.stepsLeft = s.stepsLeft)

/-- Left alone, a BUSY engine reaches DONE in exactly the steps that are left, and is still BUSY after
any fewer (44_sequencer_serialization.md R213; 70_reset_and_hazards.md R320, R321). -/
def Obligations.BusyEngineReachesDone : Prop :=
  ∀ s : State, Invariant s → s.busy = true → s.turns = [] →
    ∃ t, Host.Core.run core s.stepsLeft s = .next t ∧ t.phase = .done ∧ t.SRC = s.SRC ∧
      t.LEN = s.LEN ∧ t.mem = s.mem ∧
      ∀ n, n < s.stepsLeft → ∃ u, Host.Core.run core n s = .next u ∧ u.busy = true

/-- Whatever the agents do, a computation stays on SHA-256 of its message: from any state that has the
invariant and computes SHA-256 of M, each step that starts no new computation, and after which the host
has kept the duty of 70_reset_and_hazards.md R311, gives a state that computes SHA-256 of M
(44_sequencer_serialization.md R216). -/
def Obligations.StepKeepsSha : Prop :=
  ∀ (s t : State) (M : List Byte), Invariant s → s.computes M → step s = .next t →
    ¬(s.busy = false ∧ t.busy = true) → t.msgDisturbed = false → t.computes M

/-- An accepted START begins SHA-256 of the message as it stands (45_host_interface.md R240). -/
def Obligations.StartBeginsSha : Prop :=
  ∀ (s t : State) (g : BitVec 28), s.busy = false → s.accepted → exec (.start g) s = .next t →
    t.computes s.message ∧ t.msgDisturbed = false ∧ t.message = s.message

/-- An accepted START, left alone, ends after 1 + 131 * NBLK engine steps in DONE with the SHA-256 hash
state of the message readable in DIGEST0..7, whatever the state before it (00_scope.md R3;
44_sequencer_serialization.md R213, R216). -/
def Obligations.AcceptedStartLeavesTheDigest : Prop :=
  ∀ (s : State) (w : Htw) (g : BitVec 28), Invariant s → s.busy = false → s.accepted →
    s.turns = [.host w] → decodeHtw w = .ok (.start g) →
    ∃ t, Host.Core.run core (1 + (1 + 131 * ((s.LEN.toNat + 8) / 64 + 1))) s = .next t ∧
      t.phase = .done ∧ t.H = Ref.hash s.message ∧
      ∀ n : BitVec 3, t.digestReg n = (Ref.hash s.message)[n.toNat]'(n.isLt)
end

