-- ==== Sys2Proof/Laws/Bits.lean ====
section
/-! SUPPORT. Fields of a word that is built by putting fields side by side. -/

namespace Sys2Proof

theorem extract_append_low {v w : Nat} (x : BitVec v) (y : BitVec w) (start len : Nat)
    (h : start + len ≤ w) : (x ++ y).extractLsb' start len = y.extractLsb' start len := by
  ext i hi
  simp only [BitVec.getElem_extractLsb', BitVec.getLsbD_append]
  simp [show start + i < w by omega]

theorem extract_append_high {v w : Nat} (x : BitVec v) (y : BitVec w) (start len : Nat)
    (h : w ≤ start) : (x ++ y).extractLsb' start len = x.extractLsb' (start - w) len := by
  ext i hi
  simp only [BitVec.getElem_extractLsb', BitVec.getLsbD_append]
  simp [show ¬ start + i < w by omega, show start + i - w = start - w + i by omega]

theorem extract_all {w : Nat} (x : BitVec w) : x.extractLsb' 0 w = x := by
  ext i hi
  simp

end Sys2Proof
end

