-- ==== Sys2Proof/Laws/Encoding.lean ====
section
/-! SUPPORT. The fields of the words the encoder builds, and what the decoder reads from words put
together from fields (30_encoding.md R91, R93, R100). -/

namespace Sys2Proof

theorem htwWe_word (we rsv : BitVec 1) (slot : BitVec 6) (v : Word) :
    htwWe (htwWord we rsv slot v) = we := by
  rw [htwWe, htwWord, extract_append_high _ _ _ _ (by omega),
    extract_append_high _ _ _ _ (by omega), extract_append_high _ _ _ _ (by omega)]
  exact extract_all _

theorem htwRsv_word (we rsv : BitVec 1) (slot : BitVec 6) (v : Word) :
    htwRsv (htwWord we rsv slot v) = rsv := by
  rw [htwRsv, htwWord, extract_append_high _ _ _ _ (by omega),
    extract_append_high _ _ _ _ (by omega), extract_append_low _ _ _ _ (by omega)]
  exact extract_all _

theorem htwSlot_word (we rsv : BitVec 1) (slot : BitVec 6) (v : Word) :
    htwSlot (htwWord we rsv slot v) = slot := by
  rw [htwSlot, htwWord, extract_append_high _ _ _ _ (by omega),
    extract_append_low _ _ _ _ (by omega)]
  exact extract_all _

theorem htwData_word (we rsv : BitVec 1) (slot : BitVec 6) (v : Word) :
    htwData (htwWord we rsv slot v) = v := by
  rw [htwData, htwWord, extract_append_low _ _ _ _ (by omega)]
  exact extract_all _

theorem ctrlCmd_word (ign : BitVec 28) (cmd : BitVec 4) : ctrlCmd (ign ++ cmd) = cmd := by
  rw [ctrlCmd, extract_append_low _ _ _ _ (by omega)]
  exact extract_all _

theorem ctrlIgn_word (ign : BitVec 28) (cmd : BitVec 4) : ctrlIgn (ign ++ cmd) = ign := by
  rw [ctrlIgn, extract_append_high _ _ _ _ (by omega)]
  exact extract_all _

theorem uop_fields_word : ∀ (c : BitVec 4) (t : BitVec 6),
    uopClass (uopWord c t) = c ∧ uopZ2 (uopWord c t) = 0 ∧ uopT (uopWord c t) = t := by
  decide

theorem decode_readWord (slot : BitVec 6) : decode (readWord slot) = .ok (decodeRead slot) := by
  simp [decode, readWord, decodeHtw, htwRsv_word, htwWe_word, htwSlot_word]

theorem decode_writeWord (slot : BitVec 6) (v : Word) :
    decode (writeWord slot v) = .ok (decodeWrite slot v) := by
  simp [decode, writeWord, decodeHtw, htwRsv_word, htwWe_word, htwSlot_word, htwData_word]

theorem decode_commandWord (ign : BitVec 28) (cmd : BitVec 4) :
    decode (commandWord ign cmd) = .ok (decodeCommand ign cmd) := by
  rw [commandWord, decode_writeWord]
  simp [decodeWrite, ctrlIgn_word, ctrlCmd_word]

theorem decodeUop_uopWord (c : BitVec 4) (t : BitVec 6) :
    decodeUop (uopWord c t) = decodeClass c t := by
  obtain ⟨hc, hz, ht⟩ := uop_fields_word c t
  simp [decodeUop, hc, hz, ht]

/-- A word with RSV = 1 is refused. -/
theorem decodeHtw_error_iff (w : Htw) :
    decodeHtw w = .error .rsvSet ↔ w.getLsbD 38 = true := by
  have h : htwRsv w = 1 ↔ w.getLsbD 38 = true := by
    constructor
    · intro h
      have := congrArg (fun x : BitVec 1 => x.getLsbD 0) h
      simpa [htwRsv] using this
    · intro h
      apply BitVec.eq_of_getLsbD_eq
      intro i hi
      have hi : i = 0 := by omega
      subst hi
      simpa [htwRsv] using h
  unfold decodeHtw
  rw [← h]
  split_ifs with h1 h2
  · exact ⟨fun _ => h1, fun _ => rfl⟩
  · exact ⟨fun e => (by cases e), fun e => absurd e h1⟩
  · exact ⟨fun e => (by cases e), fun e => absurd e h1⟩

theorem uop_eq_word : ∀ u : Uop, uopZ2 u = 0 → u = uopWord (uopClass u) (uopT u) := by decide

/-- The micro-operations, and the UOP word of each (30_encoding.md R101). -/
theorem decodeUop_ok : ∀ {u : Uop} {i : Instr}, decodeUop u = .ok i →
    (i = .frame ∧ u = uopWord 1 0) ∨ (∃ t : BitVec 6, t < 16 ∧ i = .loadw t ∧ u = uopWord 2 t) ∨
      (∃ t : BitVec 6, 16 ≤ t ∧ t < 32 ∧ i = .expand16to31 t ∧ u = uopWord 3 t) ∨
      (∃ t : BitVec 6, 32 ≤ t ∧ i = .expand32to63 t ∧ u = uopWord 3 t) ∨
      (i = .initwv ∧ u = uopWord 4 0) ∨ (∃ t : BitVec 6, i = .round t ∧ u = uopWord 5 t) ∨
      (i = .feedback ∧ u = uopWord 6 0) ∨ (i = .nextblk ∧ u = uopWord 7 0) ∨
      (i = .finish ∧ u = uopWord 8 0) := by
  intro u i h
  have hu := uop_eq_word u
  generalize uopClass u = c, uopT u = t at hu
  unfold decodeUop at h
  split at h
  · rename_i hz
    have hu := hu hz
    subst hu
    obtain ⟨hc, -, ht⟩ := uop_fields_word c t
    rw [hc, ht] at h
    unfold decodeClass decodeBareUop at h
    split_ifs at h <;> cases h <;> subst_vars <;> simp_all
  · cases h

end Sys2Proof
end

