-- ==== Sys2Proof/Laws/Memory.lean ====
section
/-! SUPPORT. Message memory: a read after a write, and the canonical form. -/

namespace Sys2Proof.Machine

theorem read_put_same (m : Memory) (x : Nat) (b : Byte) (h : ∀ c ∈ m, x < c.1) :
    (Memory.put x b m).read x = b := by
  have below : ∀ m : Memory, (∀ c ∈ m, x < c.1) → m.read x = Config.unlistedByte := by
    intro m hm
    induction m with
    | nil => rfl
    | cons c m ih =>
      obtain ⟨a, d⟩ := c
      have ha : x < a := hm (a, d) (by simp)
      rw [Memory.read, if_neg (by omega), ih fun c hc => hm c (by simp [hc])]
  unfold Memory.put
  split
  · rename_i hb
    rw [hb, below m h]
  · simp [Memory.read]

theorem read_put_other (m : Memory) {x y : Nat} (b : Byte) (h : x ≠ y) :
    (Memory.put x b m).read y = m.read y := by
  unfold Memory.put
  split
  · rfl
  · simp [Memory.read, h]

theorem all_lt_iff (m : Memory) (a : Nat) :
    m.all (fun c => decide (a < c.1)) = true ↔ ∀ c ∈ m, a < c.1 := by
  simp [List.all_eq_true]

theorem wf_cons (a : Nat) (b : Byte) (m : Memory) :
    Memory.wf ((a, b) :: m) = true ↔
      b ≠ Config.unlistedByte ∧ (∀ c ∈ m, a < c.1) ∧ m.wf = true := by
  simp [Memory.wf, List.all_eq_true, and_assoc]

theorem put_wf {m : Memory} (x : Nat) (b : Byte) (h : m.wf = true) (hx : ∀ c ∈ m, x < c.1) :
    (Memory.put x b m).wf = true := by
  unfold Memory.put
  split
  · exact h
  · rename_i hb
    exact (wf_cons x b m).2 ⟨hb, hx, h⟩

theorem mem_put {m : Memory} {x : Nat} {b : Byte} {c : Host.Cell} (h : c ∈ Memory.put x b m) :
    c = (x, b) ∨ c ∈ m := by
  unfold Memory.put at h
  split at h
  · exact .inr h
  · simpa using h

/-- A cell of a written memory is the written one or was there. -/
theorem mem_write {m : Memory} {x : Nat} {b : Byte} {c : Host.Cell} (h : c ∈ m.write x b) :
    c = (x, b) ∨ c ∈ m := by
  induction m with
  | nil => simpa [Memory.write] using mem_put h
  | cons d m ih =>
    obtain ⟨a, e⟩ := d
    unfold Memory.write at h
    split at h
    · exact mem_put h
    · split at h
      · exact (mem_put h).imp_right (by simp +contextual)
      · rcases List.mem_cons.1 h with h | h
        · exact .inr (by simp [h])
        · exact (ih h).imp_right (by simp +contextual)

/-- Every write keeps the canonical form. -/
theorem write_wf {m : Memory} (x : Nat) (b : Byte) (h : m.wf = true) :
    (m.write x b).wf = true := by
  induction m with
  | nil => exact put_wf x b h (by simp)
  | cons d m ih =>
    obtain ⟨a, e⟩ := d
    obtain ⟨he, ha, hm⟩ := (wf_cons a e m).1 h
    unfold Memory.write
    split
    · rename_i hx
      refine put_wf x b h fun c hc => ?_
      rcases List.mem_cons.1 hc with rfl | hc
      · exact hx
      · exact Nat.lt_trans hx (ha c hc)
    · split
      · rename_i hx
        exact put_wf x b hm fun c hc => hx ▸ ha c hc
      · refine (wf_cons a e _).2 ⟨he, fun c hc => ?_, ih hm⟩
        rcases mem_write hc with rfl | hc
        · simp only
          omega
        · exact ha c hc

/-- A read of the written address gives the value written. -/
theorem read_write_same {m : Memory} (x : Nat) (b : Byte) (h : m.wf = true) :
    (m.write x b).read x = b := by
  induction m with
  | nil => exact read_put_same [] x b (by simp)
  | cons d m ih =>
    obtain ⟨a, e⟩ := d
    obtain ⟨-, ha, hm⟩ := (wf_cons a e m).1 h
    unfold Memory.write
    split
    · rename_i hx
      refine read_put_same _ x b fun c hc => ?_
      rcases List.mem_cons.1 hc with rfl | hc
      · exact hx
      · exact Nat.lt_trans hx (ha c hc)
    · split
      · rename_i hx
        exact read_put_same m x b fun c hc => hx ▸ ha c hc
      · rename_i hlt hne
        rw [Memory.read, if_neg (by omega), ih hm]

/-- A write leaves every other address as it was. -/
theorem read_write_other (m : Memory) {x y : Nat} (b : Byte) (h : x ≠ y) :
    (m.write x b).read y = m.read y := by
  induction m with
  | nil => exact read_put_other [] b h
  | cons d m ih =>
    obtain ⟨a, e⟩ := d
    unfold Memory.write
    split
    · exact read_put_other _ b h
    · split
      · rename_i hx
        rw [read_put_other m b h, Memory.read, if_neg (by omega)]
      · simp only [Memory.read, ih]

theorem reset_memory_wf : State.reset.mem.wf = true := rfl

end Sys2Proof.Machine
end

