-- ==== Sys2Proof/Laws/State.lean ====
section
/-! SUPPORT. One lemma per field of State per named update: what it writes, and that every other field
stays. Later proofs cite these and unfold no record update. -/

namespace Sys2Proof.Machine

variable (s : State)

@[simp] theorem returnData_phase (v : Word) : (returnData v s).phase = s.phase := rfl
@[simp] theorem returnData_errcode (v : Word) : (returnData v s).errcode = s.errcode := rfl
@[simp] theorem returnData_SRC (v : Word) : (returnData v s).SRC = s.SRC := rfl
@[simp] theorem returnData_LEN (v : Word) : (returnData v s).LEN = s.LEN := rfl
@[simp] theorem returnData_H (v : Word) : (returnData v s).H = s.H := rfl
@[simp] theorem returnData_wv (v : Word) : (returnData v s).wv = s.wv := rfl
@[simp] theorem returnData_W (v : Word) : (returnData v s).W = s.W := rfl
@[simp] theorem returnData_seq (v : Word) : (returnData v s).seq = s.seq := rfl
@[simp] theorem returnData_blk (v : Word) : (returnData v s).blk = s.blk := rfl
@[simp] theorem returnData_BITLEN (v : Word) : (returnData v s).BITLEN = s.BITLEN := rfl
@[simp] theorem returnData_NBLK (v : Word) : (returnData v s).NBLK = s.NBLK := rfl
@[simp] theorem returnData_mem (v : Word) : (returnData v s).mem = s.mem := rfl
@[simp] theorem returnData_msgSize (v : Word) : (returnData v s).msgSize = s.msgSize := rfl
@[simp] theorem returnData_hRdata (v : Word) : (returnData v s).hRdata = v := rfl
@[simp] theorem returnData_turns (v : Word) : (returnData v s).turns = s.turns := rfl
@[simp] theorem returnData_msgDisturbed (v : Word) :
    (returnData v s).msgDisturbed = s.msgDisturbed :=
    rfl
@[simp] theorem returnData_draws (v : Word) : (returnData v s).draws = s.draws := rfl

@[simp] theorem setSrc_phase (v : Dword) : (setSrc v s).phase = s.phase := rfl
@[simp] theorem setSrc_errcode (v : Dword) : (setSrc v s).errcode = s.errcode := rfl
@[simp] theorem setSrc_SRC (v : Dword) : (setSrc v s).SRC = v := rfl
@[simp] theorem setSrc_LEN (v : Dword) : (setSrc v s).LEN = s.LEN := rfl
@[simp] theorem setSrc_H (v : Dword) : (setSrc v s).H = s.H := rfl
@[simp] theorem setSrc_wv (v : Dword) : (setSrc v s).wv = s.wv := rfl
@[simp] theorem setSrc_W (v : Dword) : (setSrc v s).W = s.W := rfl
@[simp] theorem setSrc_seq (v : Dword) : (setSrc v s).seq = s.seq := rfl
@[simp] theorem setSrc_blk (v : Dword) : (setSrc v s).blk = s.blk := rfl
@[simp] theorem setSrc_BITLEN (v : Dword) : (setSrc v s).BITLEN = s.BITLEN := rfl
@[simp] theorem setSrc_NBLK (v : Dword) : (setSrc v s).NBLK = s.NBLK := rfl
@[simp] theorem setSrc_mem (v : Dword) : (setSrc v s).mem = s.mem := rfl
@[simp] theorem setSrc_msgSize (v : Dword) : (setSrc v s).msgSize = s.msgSize := rfl
@[simp] theorem setSrc_hRdata (v : Dword) : (setSrc v s).hRdata = s.hRdata := rfl
@[simp] theorem setSrc_turns (v : Dword) : (setSrc v s).turns = s.turns := rfl
@[simp] theorem setSrc_msgDisturbed (v : Dword) : (setSrc v s).msgDisturbed = s.msgDisturbed := rfl
@[simp] theorem setSrc_draws (v : Dword) : (setSrc v s).draws = s.draws := rfl

@[simp] theorem setLen_phase (v : Dword) : (setLen v s).phase = s.phase := rfl
@[simp] theorem setLen_errcode (v : Dword) : (setLen v s).errcode = s.errcode := rfl
@[simp] theorem setLen_SRC (v : Dword) : (setLen v s).SRC = s.SRC := rfl
@[simp] theorem setLen_LEN (v : Dword) : (setLen v s).LEN = v := rfl
@[simp] theorem setLen_H (v : Dword) : (setLen v s).H = s.H := rfl
@[simp] theorem setLen_wv (v : Dword) : (setLen v s).wv = s.wv := rfl
@[simp] theorem setLen_W (v : Dword) : (setLen v s).W = s.W := rfl
@[simp] theorem setLen_seq (v : Dword) : (setLen v s).seq = s.seq := rfl
@[simp] theorem setLen_blk (v : Dword) : (setLen v s).blk = s.blk := rfl
@[simp] theorem setLen_BITLEN (v : Dword) : (setLen v s).BITLEN = s.BITLEN := rfl
@[simp] theorem setLen_NBLK (v : Dword) : (setLen v s).NBLK = s.NBLK := rfl
@[simp] theorem setLen_mem (v : Dword) : (setLen v s).mem = s.mem := rfl
@[simp] theorem setLen_msgSize (v : Dword) : (setLen v s).msgSize = s.msgSize := rfl
@[simp] theorem setLen_hRdata (v : Dword) : (setLen v s).hRdata = s.hRdata := rfl
@[simp] theorem setLen_turns (v : Dword) : (setLen v s).turns = s.turns := rfl
@[simp] theorem setLen_msgDisturbed (v : Dword) : (setLen v s).msgDisturbed = s.msgDisturbed := rfl
@[simp] theorem setLen_draws (v : Dword) : (setLen v s).draws = s.draws := rfl

@[simp] theorem setSeq_phase (u : Uop) : (setSeq u s).phase = s.phase := rfl
@[simp] theorem setSeq_errcode (u : Uop) : (setSeq u s).errcode = s.errcode := rfl
@[simp] theorem setSeq_SRC (u : Uop) : (setSeq u s).SRC = s.SRC := rfl
@[simp] theorem setSeq_LEN (u : Uop) : (setSeq u s).LEN = s.LEN := rfl
@[simp] theorem setSeq_H (u : Uop) : (setSeq u s).H = s.H := rfl
@[simp] theorem setSeq_wv (u : Uop) : (setSeq u s).wv = s.wv := rfl
@[simp] theorem setSeq_W (u : Uop) : (setSeq u s).W = s.W := rfl
@[simp] theorem setSeq_seq (u : Uop) : (setSeq u s).seq = u := rfl
@[simp] theorem setSeq_blk (u : Uop) : (setSeq u s).blk = s.blk := rfl
@[simp] theorem setSeq_BITLEN (u : Uop) : (setSeq u s).BITLEN = s.BITLEN := rfl
@[simp] theorem setSeq_NBLK (u : Uop) : (setSeq u s).NBLK = s.NBLK := rfl
@[simp] theorem setSeq_mem (u : Uop) : (setSeq u s).mem = s.mem := rfl
@[simp] theorem setSeq_msgSize (u : Uop) : (setSeq u s).msgSize = s.msgSize := rfl
@[simp] theorem setSeq_hRdata (u : Uop) : (setSeq u s).hRdata = s.hRdata := rfl
@[simp] theorem setSeq_turns (u : Uop) : (setSeq u s).turns = s.turns := rfl
@[simp] theorem setSeq_msgDisturbed (u : Uop) : (setSeq u s).msgDisturbed = s.msgDisturbed := rfl
@[simp] theorem setSeq_draws (u : Uop) : (setSeq u s).draws = s.draws := rfl

@[simp] theorem setSched_phase (t : BitVec 6) (v : Word) : (setSched t v s).phase = s.phase := rfl
@[simp] theorem setSched_errcode (t : BitVec 6) (v : Word) : (setSched t v s).errcode = s.errcode :=
    rfl
@[simp] theorem setSched_SRC (t : BitVec 6) (v : Word) : (setSched t v s).SRC = s.SRC := rfl
@[simp] theorem setSched_LEN (t : BitVec 6) (v : Word) : (setSched t v s).LEN = s.LEN := rfl
@[simp] theorem setSched_H (t : BitVec 6) (v : Word) : (setSched t v s).H = s.H := rfl
@[simp] theorem setSched_wv (t : BitVec 6) (v : Word) : (setSched t v s).wv = s.wv := rfl
@[simp] theorem setSched_W (t : BitVec 6) (v : Word) :
    (setSched t v s).W = s.W.set t.toNat v t.isLt :=
    rfl
@[simp] theorem setSched_seq (t : BitVec 6) (v : Word) : (setSched t v s).seq = s.seq := rfl
@[simp] theorem setSched_blk (t : BitVec 6) (v : Word) : (setSched t v s).blk = s.blk := rfl
@[simp] theorem setSched_BITLEN (t : BitVec 6) (v : Word) : (setSched t v s).BITLEN = s.BITLEN :=
    rfl
@[simp] theorem setSched_NBLK (t : BitVec 6) (v : Word) : (setSched t v s).NBLK = s.NBLK := rfl
@[simp] theorem setSched_mem (t : BitVec 6) (v : Word) : (setSched t v s).mem = s.mem := rfl
@[simp] theorem setSched_msgSize (t : BitVec 6) (v : Word) : (setSched t v s).msgSize = s.msgSize :=
    rfl
@[simp] theorem setSched_hRdata (t : BitVec 6) (v : Word) : (setSched t v s).hRdata = s.hRdata :=
    rfl
@[simp] theorem setSched_turns (t : BitVec 6) (v : Word) : (setSched t v s).turns = s.turns := rfl
@[simp] theorem setSched_msgDisturbed (t : BitVec 6) (v : Word) :
    (setSched t v s).msgDisturbed = s.msgDisturbed :=
    rfl
@[simp] theorem setSched_draws (t : BitVec 6) (v : Word) : (setSched t v s).draws = s.draws := rfl

@[simp] theorem setWorkVars_phase (v : WorkVars) : (setWorkVars v s).phase = s.phase := rfl
@[simp] theorem setWorkVars_errcode (v : WorkVars) : (setWorkVars v s).errcode = s.errcode := rfl
@[simp] theorem setWorkVars_SRC (v : WorkVars) : (setWorkVars v s).SRC = s.SRC := rfl
@[simp] theorem setWorkVars_LEN (v : WorkVars) : (setWorkVars v s).LEN = s.LEN := rfl
@[simp] theorem setWorkVars_H (v : WorkVars) : (setWorkVars v s).H = s.H := rfl
@[simp] theorem setWorkVars_wv (v : WorkVars) : (setWorkVars v s).wv = v := rfl
@[simp] theorem setWorkVars_W (v : WorkVars) : (setWorkVars v s).W = s.W := rfl
@[simp] theorem setWorkVars_seq (v : WorkVars) : (setWorkVars v s).seq = s.seq := rfl
@[simp] theorem setWorkVars_blk (v : WorkVars) : (setWorkVars v s).blk = s.blk := rfl
@[simp] theorem setWorkVars_BITLEN (v : WorkVars) : (setWorkVars v s).BITLEN = s.BITLEN := rfl
@[simp] theorem setWorkVars_NBLK (v : WorkVars) : (setWorkVars v s).NBLK = s.NBLK := rfl
@[simp] theorem setWorkVars_mem (v : WorkVars) : (setWorkVars v s).mem = s.mem := rfl
@[simp] theorem setWorkVars_msgSize (v : WorkVars) : (setWorkVars v s).msgSize = s.msgSize := rfl
@[simp] theorem setWorkVars_hRdata (v : WorkVars) : (setWorkVars v s).hRdata = s.hRdata := rfl
@[simp] theorem setWorkVars_turns (v : WorkVars) : (setWorkVars v s).turns = s.turns := rfl
@[simp] theorem setWorkVars_msgDisturbed (v : WorkVars) :
    (setWorkVars v s).msgDisturbed = s.msgDisturbed :=
    rfl
@[simp] theorem setWorkVars_draws (v : WorkVars) : (setWorkVars v s).draws = s.draws := rfl

@[simp] theorem setHash_phase (v : Vector Word 8) : (setHash v s).phase = s.phase := rfl
@[simp] theorem setHash_errcode (v : Vector Word 8) : (setHash v s).errcode = s.errcode := rfl
@[simp] theorem setHash_SRC (v : Vector Word 8) : (setHash v s).SRC = s.SRC := rfl
@[simp] theorem setHash_LEN (v : Vector Word 8) : (setHash v s).LEN = s.LEN := rfl
@[simp] theorem setHash_H (v : Vector Word 8) : (setHash v s).H = v := rfl
@[simp] theorem setHash_wv (v : Vector Word 8) : (setHash v s).wv = s.wv := rfl
@[simp] theorem setHash_W (v : Vector Word 8) : (setHash v s).W = s.W := rfl
@[simp] theorem setHash_seq (v : Vector Word 8) : (setHash v s).seq = s.seq := rfl
@[simp] theorem setHash_blk (v : Vector Word 8) : (setHash v s).blk = s.blk := rfl
@[simp] theorem setHash_BITLEN (v : Vector Word 8) : (setHash v s).BITLEN = s.BITLEN := rfl
@[simp] theorem setHash_NBLK (v : Vector Word 8) : (setHash v s).NBLK = s.NBLK := rfl
@[simp] theorem setHash_mem (v : Vector Word 8) : (setHash v s).mem = s.mem := rfl
@[simp] theorem setHash_msgSize (v : Vector Word 8) : (setHash v s).msgSize = s.msgSize := rfl
@[simp] theorem setHash_hRdata (v : Vector Word 8) : (setHash v s).hRdata = s.hRdata := rfl
@[simp] theorem setHash_turns (v : Vector Word 8) : (setHash v s).turns = s.turns := rfl
@[simp] theorem setHash_msgDisturbed (v : Vector Word 8) :
    (setHash v s).msgDisturbed = s.msgDisturbed :=
    rfl
@[simp] theorem setHash_draws (v : Vector Word 8) : (setHash v s).draws = s.draws := rfl

@[simp] theorem setTurns_phase (l : List Turn) : (setTurns l s).phase = s.phase := rfl
@[simp] theorem setTurns_errcode (l : List Turn) : (setTurns l s).errcode = s.errcode := rfl
@[simp] theorem setTurns_SRC (l : List Turn) : (setTurns l s).SRC = s.SRC := rfl
@[simp] theorem setTurns_LEN (l : List Turn) : (setTurns l s).LEN = s.LEN := rfl
@[simp] theorem setTurns_H (l : List Turn) : (setTurns l s).H = s.H := rfl
@[simp] theorem setTurns_wv (l : List Turn) : (setTurns l s).wv = s.wv := rfl
@[simp] theorem setTurns_W (l : List Turn) : (setTurns l s).W = s.W := rfl
@[simp] theorem setTurns_seq (l : List Turn) : (setTurns l s).seq = s.seq := rfl
@[simp] theorem setTurns_blk (l : List Turn) : (setTurns l s).blk = s.blk := rfl
@[simp] theorem setTurns_BITLEN (l : List Turn) : (setTurns l s).BITLEN = s.BITLEN := rfl
@[simp] theorem setTurns_NBLK (l : List Turn) : (setTurns l s).NBLK = s.NBLK := rfl
@[simp] theorem setTurns_mem (l : List Turn) : (setTurns l s).mem = s.mem := rfl
@[simp] theorem setTurns_msgSize (l : List Turn) : (setTurns l s).msgSize = s.msgSize := rfl
@[simp] theorem setTurns_hRdata (l : List Turn) : (setTurns l s).hRdata = s.hRdata := rfl
@[simp] theorem setTurns_turns (l : List Turn) : (setTurns l s).turns = l := rfl
@[simp] theorem setTurns_msgDisturbed (l : List Turn) :
    (setTurns l s).msgDisturbed = s.msgDisturbed :=
    rfl
@[simp] theorem setTurns_draws (l : List Turn) : (setTurns l s).draws = s.draws := rfl

@[simp] theorem storeByte_phase (addr : Nat) (b : Byte) : (storeByte addr b s).phase = s.phase :=
    rfl
@[simp] theorem storeByte_errcode (addr : Nat) (b : Byte) :
    (storeByte addr b s).errcode = s.errcode :=
    rfl
@[simp] theorem storeByte_SRC (addr : Nat) (b : Byte) : (storeByte addr b s).SRC = s.SRC := rfl
@[simp] theorem storeByte_LEN (addr : Nat) (b : Byte) : (storeByte addr b s).LEN = s.LEN := rfl
@[simp] theorem storeByte_H (addr : Nat) (b : Byte) : (storeByte addr b s).H = s.H := rfl
@[simp] theorem storeByte_wv (addr : Nat) (b : Byte) : (storeByte addr b s).wv = s.wv := rfl
@[simp] theorem storeByte_W (addr : Nat) (b : Byte) : (storeByte addr b s).W = s.W := rfl
@[simp] theorem storeByte_seq (addr : Nat) (b : Byte) : (storeByte addr b s).seq = s.seq := rfl
@[simp] theorem storeByte_blk (addr : Nat) (b : Byte) : (storeByte addr b s).blk = s.blk := rfl
@[simp] theorem storeByte_BITLEN (addr : Nat) (b : Byte) : (storeByte addr b s).BITLEN = s.BITLEN :=
    rfl
@[simp] theorem storeByte_NBLK (addr : Nat) (b : Byte) : (storeByte addr b s).NBLK = s.NBLK := rfl
@[simp] theorem storeByte_mem (addr : Nat) (b : Byte) :
    (storeByte addr b s).mem = s.mem.write addr b :=
    rfl
@[simp] theorem storeByte_msgSize (addr : Nat) (b : Byte) :
    (storeByte addr b s).msgSize = s.msgSize :=
    rfl
@[simp] theorem storeByte_hRdata (addr : Nat) (b : Byte) : (storeByte addr b s).hRdata = s.hRdata :=
    rfl
@[simp] theorem storeByte_turns (addr : Nat) (b : Byte) : (storeByte addr b s).turns = s.turns :=
    rfl
@[simp] theorem storeByte_msgDisturbed (addr : Nat) (b : Byte) :
    (storeByte addr b s).msgDisturbed = (s.msgDisturbed || (s.busy && s.inMessage addr)) :=
    rfl
@[simp] theorem storeByte_draws (addr : Nat) (b : Byte) : (storeByte addr b s).draws = s.draws :=
    rfl

@[simp] theorem reject_phase (code : BitVec 4) : (reject code s).phase = .idle := rfl
@[simp] theorem reject_errcode (code : BitVec 4) : (reject code s).errcode = code := rfl
@[simp] theorem reject_SRC (code : BitVec 4) : (reject code s).SRC = s.SRC := rfl
@[simp] theorem reject_LEN (code : BitVec 4) : (reject code s).LEN = s.LEN := rfl
@[simp] theorem reject_H (code : BitVec 4) : (reject code s).H = s.H := rfl
@[simp] theorem reject_wv (code : BitVec 4) : (reject code s).wv = s.wv := rfl
@[simp] theorem reject_W (code : BitVec 4) : (reject code s).W = s.W := rfl
@[simp] theorem reject_seq (code : BitVec 4) : (reject code s).seq = s.seq := rfl
@[simp] theorem reject_blk (code : BitVec 4) : (reject code s).blk = s.blk := rfl
@[simp] theorem reject_BITLEN (code : BitVec 4) : (reject code s).BITLEN = s.BITLEN := rfl
@[simp] theorem reject_NBLK (code : BitVec 4) : (reject code s).NBLK = s.NBLK := rfl
@[simp] theorem reject_mem (code : BitVec 4) : (reject code s).mem = s.mem := rfl
@[simp] theorem reject_msgSize (code : BitVec 4) : (reject code s).msgSize = s.msgSize := rfl
@[simp] theorem reject_hRdata (code : BitVec 4) : (reject code s).hRdata = s.hRdata := rfl
@[simp] theorem reject_turns (code : BitVec 4) : (reject code s).turns = s.turns := rfl
@[simp] theorem reject_msgDisturbed (code : BitVec 4) :
    (reject code s).msgDisturbed = s.msgDisturbed :=
    rfl
@[simp] theorem reject_draws (code : BitVec 4) : (reject code s).draws = s.draws := rfl

@[simp] theorem acceptStart_phase : (acceptStart s).phase = .framing := rfl
@[simp] theorem acceptStart_errcode : (acceptStart s).errcode = 0 := rfl
@[simp] theorem acceptStart_SRC : (acceptStart s).SRC = s.SRC := rfl
@[simp] theorem acceptStart_LEN : (acceptStart s).LEN = s.LEN := rfl
@[simp] theorem acceptStart_H : (acceptStart s).H = ivRom := rfl
@[simp] theorem acceptStart_wv : (acceptStart s).wv = s.wv := rfl
@[simp] theorem acceptStart_W : (acceptStart s).W = s.W := rfl
@[simp] theorem acceptStart_seq : (acceptStart s).seq = uopWord 1 0 := rfl
@[simp] theorem acceptStart_blk : (acceptStart s).blk = s.blk := rfl
@[simp] theorem acceptStart_BITLEN : (acceptStart s).BITLEN = s.BITLEN := rfl
@[simp] theorem acceptStart_NBLK : (acceptStart s).NBLK = s.NBLK := rfl
@[simp] theorem acceptStart_mem : (acceptStart s).mem = s.mem := rfl
@[simp] theorem acceptStart_msgSize : (acceptStart s).msgSize = s.msgSize := rfl
@[simp] theorem acceptStart_hRdata : (acceptStart s).hRdata = s.hRdata := rfl
@[simp] theorem acceptStart_turns : (acceptStart s).turns = s.turns := rfl
@[simp] theorem acceptStart_msgDisturbed : (acceptStart s).msgDisturbed = false := rfl
@[simp] theorem acceptStart_draws : (acceptStart s).draws = s.draws := rfl

@[simp] theorem frameState_phase : (frameState s).phase = .perblock := rfl
@[simp] theorem frameState_errcode : (frameState s).errcode = s.errcode := rfl
@[simp] theorem frameState_SRC : (frameState s).SRC = s.SRC := rfl
@[simp] theorem frameState_LEN : (frameState s).LEN = s.LEN := rfl
@[simp] theorem frameState_H : (frameState s).H = s.H := rfl
@[simp] theorem frameState_wv : (frameState s).wv = s.wv := rfl
@[simp] theorem frameState_W : (frameState s).W = s.W := rfl
@[simp] theorem frameState_seq : (frameState s).seq = uopWord 2 0 := rfl
@[simp] theorem frameState_blk : (frameState s).blk = 0 := rfl
@[simp] theorem frameState_BITLEN : (frameState s).BITLEN = bitLength s.LEN := rfl
@[simp] theorem frameState_NBLK : (frameState s).NBLK = BitVec.ofNat 56 (blockCount s.LEN.toNat) :=
    rfl
@[simp] theorem frameState_mem : (frameState s).mem = s.mem := rfl
@[simp] theorem frameState_msgSize : (frameState s).msgSize = s.msgSize := rfl
@[simp] theorem frameState_hRdata : (frameState s).hRdata = s.hRdata := rfl
@[simp] theorem frameState_turns : (frameState s).turns = s.turns := rfl
@[simp] theorem frameState_msgDisturbed : (frameState s).msgDisturbed = s.msgDisturbed := rfl
@[simp] theorem frameState_draws : (frameState s).draws = s.draws := rfl

@[simp] theorem resetEngine_phase : (resetEngine s).phase = .idle := rfl
@[simp] theorem resetEngine_errcode : (resetEngine s).errcode = 0 := rfl
@[simp] theorem resetEngine_SRC : (resetEngine s).SRC = 0 := rfl
@[simp] theorem resetEngine_LEN : (resetEngine s).LEN = 0 := rfl
@[simp] theorem resetEngine_H : (resetEngine s).H = State.reset.H := rfl
@[simp] theorem resetEngine_wv : (resetEngine s).wv = State.reset.wv := rfl
@[simp] theorem resetEngine_W : (resetEngine s).W = State.reset.W := rfl
@[simp] theorem resetEngine_seq : (resetEngine s).seq = State.reset.seq := rfl
@[simp] theorem resetEngine_blk : (resetEngine s).blk = State.reset.blk := rfl
@[simp] theorem resetEngine_BITLEN : (resetEngine s).BITLEN = State.reset.BITLEN := rfl
@[simp] theorem resetEngine_NBLK : (resetEngine s).NBLK = State.reset.NBLK := rfl
@[simp] theorem resetEngine_mem : (resetEngine s).mem = s.mem := rfl
@[simp] theorem resetEngine_msgSize : (resetEngine s).msgSize = s.msgSize := rfl
@[simp] theorem resetEngine_hRdata : (resetEngine s).hRdata = s.hRdata := rfl
@[simp] theorem resetEngine_turns : (resetEngine s).turns = s.turns := rfl
@[simp] theorem resetEngine_msgDisturbed : (resetEngine s).msgDisturbed = false := rfl
@[simp] theorem resetEngine_draws : (resetEngine s).draws = s.draws := rfl

@[simp] theorem settleHash_phase : (settleHash s).phase = s.phase := by unfold settleHash; split <;> rfl
@[simp] theorem settleHash_errcode : (settleHash s).errcode = s.errcode := by unfold settleHash; split <;> rfl
@[simp] theorem settleHash_SRC : (settleHash s).SRC = s.SRC := by unfold settleHash; split <;> rfl
@[simp] theorem settleHash_LEN : (settleHash s).LEN = s.LEN := by unfold settleHash; split <;> rfl
@[simp] theorem settleHash_wv : (settleHash s).wv = s.wv := by unfold settleHash; split <;> rfl
@[simp] theorem settleHash_W : (settleHash s).W = s.W := by unfold settleHash; split <;> rfl
@[simp] theorem settleHash_seq : (settleHash s).seq = s.seq := by unfold settleHash; split <;> rfl
@[simp] theorem settleHash_blk : (settleHash s).blk = s.blk := by unfold settleHash; split <;> rfl
@[simp] theorem settleHash_BITLEN : (settleHash s).BITLEN = s.BITLEN := by unfold settleHash; split <;> rfl
@[simp] theorem settleHash_NBLK : (settleHash s).NBLK = s.NBLK := by unfold settleHash; split <;> rfl
@[simp] theorem settleHash_mem : (settleHash s).mem = s.mem := by unfold settleHash; split <;> rfl
@[simp] theorem settleHash_msgSize : (settleHash s).msgSize = s.msgSize := by unfold settleHash; split <;> rfl
@[simp] theorem settleHash_hRdata : (settleHash s).hRdata = s.hRdata := by unfold settleHash; split <;> rfl
@[simp] theorem settleHash_turns : (settleHash s).turns = s.turns := by unfold settleHash; split <;> rfl
@[simp] theorem settleHash_msgDisturbed : (settleHash s).msgDisturbed = s.msgDisturbed := by unfold settleHash; split <;> rfl

/-! The schedule, read after a write. -/

theorem schedAt_setSched_same (t : BitVec 6) (v : Word) : (setSched t v s).schedAt t = v := by
  simp [State.schedAt]

theorem schedAt_setSched_other {t u : BitVec 6} (v : Word) (h : t ≠ u) :
    (setSched t v s).schedAt u = s.schedAt u := by
  have : t.toNat ≠ u.toNat := fun e => h (BitVec.eq_of_toNat_eq e)
  simp [State.schedAt, this]

/-! What the host sees depends on `phase` and `errcode` alone. -/

theorem busy_iff : s.busy = true ↔ s.phase = .framing ∨ s.phase = .perblock := by
  simp [State.busy]

theorem busy_eq_false_iff : s.busy = false ↔ s.phase = .idle ∨ s.phase = .done := by
  cases h : s.phase <;> simp [State.busy, h]

theorem busy_congr {s t : State} (h : s.phase = t.phase) : s.busy = t.busy := by
  simp [State.busy, h]

theorem statusWord_congr {s t : State} (hp : s.phase = t.phase) (he : s.errcode = t.errcode) :
    s.statusWord = t.statusWord := by
  simp [State.statusWord, State.busy, State.isDone, State.err, hp, he]

end Sys2Proof.Machine
end

