-- ==== Sys2Proof/Laws/Ops.lean ====
section
/-! SUPPORT. One lemma per shared operation that says everything it can do; later proofs cite these and
do not unfold the operation. -/

namespace Sys2Proof.Machine

variable {s t : State}

theorem memRead_eq_ok {addr : Nat} (h : addr < s.msgSize) :
    memRead s addr = .ok (s.mem.read addr) := if_pos h

theorem memRead_cases (s : State) (addr : Nat) :
    (addr < s.msgSize ∧ memRead s addr = .ok (s.mem.read addr)) ∨
      (s.msgSize ≤ addr ∧ memRead s addr = .error .msgAddress) := by
  unfold memRead
  split
  · exact .inl ⟨by assumption, rfl⟩
  · exact .inr ⟨by omega, rfl⟩

theorem unlessBusy_cases (f : State → State) (s : State) :
    (s.busy = true ∧ unlessBusy f s = s) ∨ (s.busy = false ∧ unlessBusy f s = f s) := by
  unfold unlessBusy
  cases s.busy <;> simp

/-- The checks of a START, in their order. -/
theorem startIdle_cases (s : State) :
    (2 ^ 61 ≤ s.LEN.toNat ∧ startIdle s = reject 1 s) ∨
      (s.LEN.toNat < 2 ^ 61 ∧ 0 < s.LEN.toNat ∧ s.msgSize < s.SRC.toNat + s.LEN.toNat ∧
        startIdle s = reject 2 s) ∨
      (s.accepted ∧ startIdle s = acceptStart s) := by
  unfold startIdle startError State.accepted
  split_ifs with h1 h2
  · exact .inl ⟨h1, rfl⟩
  · exact .inr (.inl ⟨by omega, h2.1, h2.2, rfl⟩)
  · exact .inr (.inr ⟨⟨by omega, by omega⟩, rfl⟩)

theorem settleHash_cases (s : State) :
    (s.msgDisturbed = false ∧ settleHash s = s) ∨
      (s.msgDisturbed = true ∧
        settleHash s = { s with H := freeHash s.draws, draws := s.draws + 8 }) := by
  unfold settleHash
  cases h : s.msgDisturbed <;> simp

/-- The four cases of a padded byte, and the fault outside them. -/
theorem padByte_cases (s : State) (j : Nat) :
    (j < s.LEN.toNat ∧ padByte s j = memRead s (s.SRC.toNat + j)) ∨
      (j = s.LEN.toNat ∧ padByte s j = .ok 0x80) ∨
      (s.LEN.toNat < j ∧ j + 8 < s.paddedLen ∧ padByte s j = .ok 0x00) ∨
      (s.LEN.toNat < j ∧ s.paddedLen ≤ j + 8 ∧ j < s.paddedLen ∧
        padByte s j = .ok (beByte8 s.BITLEN (j + 8 - s.paddedLen))) ∨
      (s.LEN.toNat < j ∧ s.paddedLen ≤ j ∧ padByte s j = .error .padIndex) := by
  unfold padByte
  split_ifs with h1 h2 h3 h4
  · exact .inl ⟨h1, rfl⟩
  · exact .inr (.inl ⟨h2, rfl⟩)
  · exact .inr (.inr (.inl ⟨by omega, h3, rfl⟩))
  · exact .inr (.inr (.inr (.inl ⟨by omega, by omega, h4, rfl⟩)))
  · exact .inr (.inr (.inr (.inr ⟨by omega, by omega, rfl⟩)))

/-- A padded word exists when its four bytes do. -/
theorem padWord_eq_ok {j : Nat} {b0 b1 b2 b3 : Byte} (h0 : padByte s j = .ok b0)
    (h1 : padByte s (j + 1) = .ok b1) (h2 : padByte s (j + 2) = .ok b2)
    (h3 : padByte s (j + 3) = .ok b3) : padWord s j = .ok (be32 b0 b1 b2 b3) := by
  simp [padWord, h0, h1, h2, h3]

/-! The halves of a 64-bit register (30_encoding.md R95). -/

theorem loHalf_withLo (d : Dword) (v : Word) : loHalf (withLo d v) = v := by
  rw [loHalf, withLo, extract_append_low _ _ _ _ (by omega), extract_all]

theorem hiHalf_withLo (d : Dword) (v : Word) : hiHalf (withLo d v) = hiHalf d := by
  rw [hiHalf, withLo, extract_append_high _ _ _ _ (by omega), extract_all]

theorem hiHalf_withHi (d : Dword) (v : Word) : hiHalf (withHi d v) = v := by
  rw [hiHalf, withHi, extract_append_high _ _ _ _ (by omega), extract_all]

theorem loHalf_withHi (d : Dword) (v : Word) : loHalf (withHi d v) = loHalf d := by
  rw [loHalf, withHi, extract_append_low _ _ _ _ (by omega), extract_all]

end Sys2Proof.Machine
end

