-- ==== Sys2Proof/Laws/Step.lean ====
section
/-! SUPPORT. What a turn of each agent can do, and the step by its next turn. -/

namespace Sys2Proof.Machine

variable {s t : State}

/-- The step by the next turn. -/
theorem step_eq_engineTurn (h : s.turns = []) : step s = engineTurn s := by
  simp [step, nextTurn, h]

theorem step_eq_takeTurn {turn : Turn} {rest : List Turn} (h : s.turns = turn :: rest) :
    step s = takeTurn turn (setTurns rest s) := by
  simp [step, nextTurn, h]

theorem hostTurn_of_decode {w : Htw} {i : Instr} (h : decodeHtw w = .ok i) :
    hostTurn w s = exec i s := by
  simp [hostTurn, h]

theorem hostTurn_refuses {w : Htw} {r : Reject} (h : decodeHtw w = .error r) :
    hostTurn w s = .refused .notATransaction := by
  simp [hostTurn, h]

theorem engineTurn_of_decode {i : Instr} (hb : s.busy = true) (h : decodeUop s.seq = .ok i) :
    engineTurn s = exec i s := by
  simp [engineTurn, hb, h]

theorem engineTurn_waits (hb : s.busy = false) : engineTurn s = .next s := by
  simp [engineTurn, hb]

/-- A next state of the host's turn is that of a transaction. -/
theorem hostTurn_next {w : Htw} (h : hostTurn w s = .next t) :
    ∃ i, decodeHtw w = .ok i ∧ exec i s = .next t := by
  unfold hostTurn at h
  split at h
  · exact ⟨_, by assumption, h⟩
  · cases h

/-- A next state of the engine's turn is that of its micro-operation, or no step at all. -/
theorem engineTurn_next (h : engineTurn s = .next t) :
    (s.busy = false ∧ t = s) ∨
      ∃ i, s.busy = true ∧ decodeUop s.seq = .ok i ∧ exec i s = .next t := by
  unfold engineTurn at h
  split at h
  · split at h
    · exact .inr ⟨_, by assumption, by assumption, h⟩
    · cases h
  · cases h
    exact .inl ⟨by simp_all, rfl⟩

/-- A poll reads STATUS, and comes again after a turn of the engine while BUSY. -/
theorem pollTurn_eq (s : State) :
    pollTurn s = .next (if s.statusWord.getLsbD 0 then
      setTurns (.engine :: .poll :: s.turns) (returnData s.statusWord s)
      else returnData s.statusWord s) := rfl

theorem memWriteTurn_next {addr : Dword} {b : Byte} (h : memWriteTurn addr b s = .next t) :
    addr.toNat < s.msgSize ∧ t = storeByte addr.toNat b s := by
  unfold memWriteTurn at h
  split at h
  · cases h
    exact ⟨by assumption, rfl⟩
  · cases h

/-- Everything a step can do. -/
theorem step_cases (h : step s = .next t) :
    (s.turns = [] ∧ engineTurn s = .next t) ∨
      ∃ rest,
        (∃ w, s.turns = .host w :: rest ∧ hostTurn w (setTurns rest s) = .next t) ∨
        (s.turns = .poll :: rest ∧ pollTurn (setTurns rest s) = .next t) ∨
        (∃ addr b, s.turns = .memWrite addr b :: rest ∧ addr.toNat < s.msgSize ∧
          t = storeByte addr.toNat b (setTurns rest s)) ∨
        (s.turns = .engine :: rest ∧ engineTurn (setTurns rest s) = .next t) ∨
        (s.turns = .rst :: rest ∧ t = resetEngine (setTurns rest s)) := by
  match hs : s.turns with
  | [] => exact .inl ⟨rfl, step_eq_engineTurn hs ▸ h⟩
  | turn :: rest =>
    rw [step_eq_takeTurn hs] at h
    refine .inr ⟨rest, ?_⟩
    match turn, h with
    | .host w, h => exact .inl ⟨w, rfl, h⟩
    | .poll, h => exact .inr (.inl ⟨rfl, h⟩)
    | .memWrite addr b, h =>
      obtain ⟨h1, h2⟩ := memWriteTurn_next h
      exact .inr (.inr (.inl ⟨addr, b, rfl, h1, h2⟩))
    | .engine, h => exact .inr (.inr (.inr (.inl ⟨rfl, h⟩)))
    | .rst, h => cases h; exact .inr (.inr (.inr (.inr ⟨rfl, rfl⟩)))

/-- A run of one step more, when that step answers. -/
theorem run_succ_of_step (M : Host.Core) (n : Nat) {a b : M.State} (h : M.step a = .next b) :
    M.run (n + 1) a = M.run n b := by
  simp only [Host.Core.run, h]

theorem run_succ (n : Nat) (h : step s = .next t) :
    Host.Core.run core (n + 1) s = Host.Core.run core n t :=
  run_succ_of_step core n h

end Sys2Proof.Machine
end

