-- ==== Sys2Proof/Laws/Exec.lean ====
section
/-! SUPPORT. Everything a host transaction, a micro-operation and a step can do: the inversion lemmas
from which the rules of the whole machine follow, with no meaning unfolded again. -/

namespace Sys2Proof.Machine

variable {s t : State}

/-- Everything a host transaction can do (45_host_interface.md R231 to R245): return a value, nothing,
replace SRC or LEN while not BUSY, or take a START while not BUSY. -/
theorem host_cases {w : Htw} {i : Instr} (hd : decodeHtw w = .ok i) (h : exec i s = .next t) :
    (∃ v, t = returnData v s) ∨ t = s ∨ (∃ v, s.busy = false ∧ t = setSrc v s) ∨
      (∃ v, s.busy = false ∧ t = setLen v s) ∨
      (∃ g, i = .start g ∧ s.busy = false ∧ t = startIdle s) := by
  have dropped : ∀ f : State → State, t = unlessBusy f s → t = s ∨ (s.busy = false ∧ t = f s) := by
    intro f ht
    rcases unlessBusy_cases f s with ⟨-, h⟩ | ⟨hb, h⟩
    · exact .inl (ht.trans h)
    · exact .inr ⟨hb, ht.trans h⟩
  unfold decodeHtw at hd
  split at hd
  · cases hd
  · split at hd
    · unfold decodeRead at hd
      split_ifs at hd <;> cases hd <;> cases h <;> exact .inl ⟨_, rfl⟩
    · unfold decodeWrite decodeCommand at hd
      split_ifs at hd <;> cases hd <;> cases h <;> first
        | exact .inr (.inl rfl)
        | (rcases dropped _ rfl with h | ⟨hb, h⟩
           · exact .inr (.inl h)
           · first
             | exact .inr (.inr (.inl ⟨_, hb, h⟩))
             | exact .inr (.inr (.inr (.inl ⟨_, hb, h⟩)))
             | exact .inr (.inr (.inr (.inr ⟨_, rfl, hb, h⟩))))

/-- Everything a micro-operation can do, by the word that named it (41_padding.md R153 to
44_sequencer_serialization.md R212). -/
theorem uop_cases {u : Uop} {i : Instr} (hd : decodeUop u = .ok i) (h : exec i s = .next t) :
    (i = .frame ∧ t = frameState s) ∨
      (∃ x v, i = .loadw x ∧ x < 16 ∧ padWord s (s.wordPos x) = .ok v ∧
        t = setSeq (afterLoadw x) (setSched x v s)) ∨
      (∃ x, ((i = .expand16to31 x ∧ 16 ≤ x ∧ x < 32) ∨ (i = .expand32to63 x ∧ 32 ≤ x)) ∧
        t = expandState x s) ∨
      (i = .initwv ∧ t = setSeq (uopWord 5 0) (setWorkVars (hashVars s.H) s)) ∨
      (∃ x, i = .round x ∧
        t = setSeq (afterRound x) (setWorkVars (roundVars s.wv (roundConst x) (s.schedAt x)) s)) ∨
      (i = .feedback ∧ t = setSeq (afterFeedback s) (setHash (addVars s.H s.wv) s)) ∨
      (i = .nextblk ∧ t = setSeq (uopWord 2 0) { s with blk := s.blk + 1 }) ∨
      (i = .finish ∧ t = { settleHash s with phase := .done }) := by
  rcases decodeUop_ok hd with ⟨rfl, -⟩ | ⟨x, hx, rfl, -⟩ | ⟨x, h1, h2, rfl, -⟩ | ⟨x, h1, rfl, -⟩ |
    ⟨rfl, -⟩ | ⟨x, rfl, -⟩ | ⟨rfl, -⟩ | ⟨rfl, -⟩ | ⟨rfl, -⟩
  · cases h
    exact .inl ⟨rfl, rfl⟩
  · simp only [exec, execLoadw, if_pos hx] at h
    split at h
    · rename_i v hv
      cases h
      exact .inr (.inl ⟨x, v, rfl, hx, hv, rfl⟩)
    · cases h
  · simp only [exec, execExpand16to31, h1, h2, and_self, if_true] at h
    cases h
    exact .inr (.inr (.inl ⟨x, .inl ⟨rfl, h1, h2⟩, rfl⟩))
  · simp only [exec, execExpand32to63, h1, if_true] at h
    cases h
    exact .inr (.inr (.inl ⟨x, .inr ⟨rfl, h1⟩, rfl⟩))
  · cases h
    exact .inr (.inr (.inr (.inl ⟨rfl, rfl⟩)))
  · cases h
    exact .inr (.inr (.inr (.inr (.inl ⟨x, rfl, rfl⟩))))
  · cases h
    exact .inr (.inr (.inr (.inr (.inr (.inl ⟨rfl, rfl⟩)))))
  · cases h
    exact .inr (.inr (.inr (.inr (.inr (.inr (.inl ⟨rfl, rfl⟩))))))
  · cases h
    exact .inr (.inr (.inr (.inr (.inr (.inr (.inr ⟨rfl, rfl⟩))))))

/-- Every transaction completes (45_host_interface.md R230). -/
theorem host_completes {w : Htw} {i : Instr} (hd : decodeHtw w = .ok i) (s : State) :
    ∃ t, exec i s = .next t := by
  unfold decodeHtw at hd
  split at hd
  · cases hd
  · split at hd
    · unfold decodeRead at hd
      split_ifs at hd <;> cases hd <;> exact ⟨_, rfl⟩
    · unfold decodeWrite decodeCommand at hd
      split_ifs at hd <;> cases hd <;> exact ⟨_, rfl⟩

/-! What `seq` decodes to after each micro-operation (44_sequencer_serialization.md R213). -/

theorem decode_frame : decodeUop (uopWord 1 0) = .ok .frame := rfl

theorem decode_loadw0 : decodeUop (uopWord 2 0) = .ok (.loadw 0) := rfl

theorem decode_round0 : decodeUop (uopWord 5 0) = .ok (.round 0) := rfl

theorem decode_afterLoadw : ∀ x : BitVec 6, x < 16 →
    (x.toNat < 15 ∧ (x + 1).toNat = x.toNat + 1 ∧
      decodeUop (afterLoadw x) = .ok (.loadw (x + 1))) ∨
    (x.toNat = 15 ∧ decodeUop (afterLoadw x) = .ok (.expand16to31 16)) := by
  decide

theorem decode_afterExpand : ∀ x : BitVec 6, 16 ≤ x →
    (x.toNat < 31 ∧ (x + 1).toNat = x.toNat + 1 ∧
      decodeUop (afterExpand x) = .ok (.expand16to31 (x + 1))) ∨
    (31 ≤ x.toNat ∧ x.toNat < 63 ∧ (x + 1).toNat = x.toNat + 1 ∧
      decodeUop (afterExpand x) = .ok (.expand32to63 (x + 1))) ∨
    (x.toNat = 63 ∧ decodeUop (afterExpand x) = .ok .initwv) := by
  decide

theorem decode_afterRound : ∀ x : BitVec 6,
    (x.toNat < 63 ∧ (x + 1).toNat = x.toNat + 1 ∧
      decodeUop (afterRound x) = .ok (.round (x + 1))) ∨
    (x.toNat = 63 ∧ decodeUop (afterRound x) = .ok .feedback) := by
  decide

theorem decode_afterFeedback (s : State) :
    (s.blk.toNat + 1 < s.NBLK.toNat ∧ decodeUop (afterFeedback s) = .ok .nextblk) ∨
    (s.NBLK.toNat ≤ s.blk.toNat + 1 ∧ decodeUop (afterFeedback s) = .ok .finish) := by
  unfold afterFeedback
  split_ifs with h
  · exact .inl ⟨h, rfl⟩
  · exact .inr ⟨by omega, rfl⟩

end Sys2Proof.Machine
end

