-- ==== Sys2Proof/Laws/PerInstr.lean ====
section
/-! SUPPORT. For every instruction: its word lies in its row of spec/opcode_table.json, that is, the fixed
bits of the word are the row's (30_encoding.md R91, R93, R101). -/

namespace Sys2Proof.Laws.InTableRow

/-- The word of a well-formed instruction has the fixed bits of its row. A word with RSV = 1 has them
for any operands, although it is no transaction (30_encoding.md R92). -/
def Statement (i : Instr) : Prop :=
  i.WellFormed ∨ (∃ we slot v, i = .invalidRsv we slot v) → inRow (encode i) (tableRow i) = true

/-- The fields of a masked HTW are the masked fields. -/
theorem htwWord_and (we rsv we' rsv' : BitVec 1) (slot slot' : BitVec 6) (v v' : Word) :
    htwWord we rsv slot v &&& htwWord we' rsv' slot' v' =
      htwWord (we &&& we') (rsv &&& rsv') (slot &&& slot') (v &&& v') := by
  have h : (we ++ rsv ++ slot ++ v) &&& (we' ++ rsv' ++ slot' ++ v') =
      (we &&& we') ++ (rsv &&& rsv') ++ (slot &&& slot') ++ (v &&& v') := by
    simp only [BitVec.and_append]
  exact h

/-- The fields of a masked UOP word are the masked fields. -/
theorem uopWord_and (c m : BitVec 4) (t m' : BitVec 6) :
    uopWord c t &&& ((m ++ (0b11 : BitVec 2) ++ m' : BitVec (4 + 2 + 6)) : Uop) =
      uopWord (c &&& m) (t &&& m') := by
  have h : (c ++ (0 : BitVec 2) ++ t) &&& (m ++ (0b11 : BitVec 2) ++ m') =
      (c &&& m) ++ ((0 : BitVec 2) &&& 0b11) ++ (t &&& m') := by
    simp only [BitVec.and_append]
  exact h

/-- The fields of a masked CTRL write are the masked fields. -/
theorem ctrlData_and (ign ign' : BitVec 28) (cmd cmd' : BitVec 4) :
    (ign ++ cmd : Word) &&& (ign' ++ cmd' : Word) = ((ign &&& ign') ++ (cmd &&& cmd') : Word) := by
  have h : (ign ++ cmd) &&& (ign' ++ cmd') = (ign &&& ign') ++ (cmd &&& cmd') :=
    BitVec.and_append
  exact h

theorem mask_all4 : ∀ x : BitVec 4, x &&& 0xF = x := by decide

theorem mask_all1 : ∀ x : BitVec 1, x &&& 1 = x := by decide

/-- A row that fixes WE, RSV and some bits of WIDX, and no bit of DATA. -/
theorem row_of_slot {we : BitVec 1} {slot slot' m : BitVec 6} {v : Word} {pattern mask : Htw}
    (hp : htwWord we 0 slot' 0 = pattern) (hm : htwWord 1 1 m 0 = mask) (h : slot &&& m = slot') :
    inRow (.htw (htwWord we 0 slot v)) (.htw pattern mask) = true := by
  have hv : v &&& (0 : Word) = 0 := BitVec.and_zero
  rw [inRow, ← hp, ← hm, htwWord_and, h, mask_all1, mask_all1, hv, beq_iff_eq]

/-- A row that fixes WE, RSV, WIDX and some bits of CMD, and no bit of IGN. -/
theorem row_of_cmd {ign : BitVec 28} {cmd cmd' m : BitVec 4} {pattern mask : Htw}
    (hp : htwWord 1 0 0 ((0 : BitVec 28) ++ cmd') = pattern)
    (hm : htwWord 1 1 0x3F ((0 : BitVec 28) ++ m) = mask) (h : cmd &&& m = cmd') :
    inRow (commandWord ign cmd) (.htw pattern mask) = true := by
  have hi : ign &&& (0 : BitVec 28) = 0 := BitVec.and_zero
  have hs : (0 : BitVec 6) &&& 0x3F = 0 := rfl
  rw [commandWord, writeWord, inRow, ← hp, ← hm, htwWord_and, ctrlData_and, h, mask_all1, mask_all1,
    hi, hs, beq_iff_eq]

/-- A UOP row: the class is fixed, Z2 is 0, and some bits of T are fixed. -/
theorem row_of_class {c : BitVec 4} {t t' m : BitVec 6} {pattern mask : Uop}
    (hp : uopWord c t' = pattern) (hm : (0xF : BitVec 4) ++ (0b11 : BitVec 2) ++ m = mask)
    (h : t &&& m = t') : inRow (.uop (uopWord c t)) (.uop pattern mask) = true := by
  rw [inRow, ← hp, ← hm, uopWord_and, h, mask_all4, beq_iff_eq]

/-- The well-formedness hypothesis, for an instruction that is not the RSV = 1 row. -/
theorem wf_of {i : Instr} (hi : ∀ we slot v, i ≠ .invalidRsv we slot v)
    (h : i.WellFormed ∨ ∃ we slot v, i = .invalidRsv we slot v) : i.wellFormed = true := by
  rcases h with h | ⟨we, slot, v, h⟩
  · exact h
  · exact absurd h (hi we slot v)

theorem slot_6to7 : ∀ slot : BitVec 6, (slot == 6 || slot == 7) = true → slot &&& 0x3E = 6 := by decide
theorem slot_16to31 : ∀ slot : BitVec 6, (decide (16 ≤ slot) && decide (slot < 32)) = true → slot &&& 0x30 = 16 := by decide
theorem slot_32to63 : ∀ slot : BitVec 6, decide (32 ≤ slot) = true → slot &&& 0x20 = 32 := by decide
theorem slot_digest : ∀ n : BitVec 3, digestSlot n &&& 0x38 = 8 := by decide
theorem cmd_2to3 : ∀ c : BitVec 4, (c == 2 || c == 3) = true → c &&& 0xE = 2 := by decide
theorem cmd_4to7 : ∀ c : BitVec 4, (decide (4 ≤ c) && decide (c < 8)) = true → c &&& 0xC = 4 := by
  decide
theorem cmd_8toF : ∀ c : BitVec 4, decide (8 ≤ c) = true → c &&& 0x8 = 8 := by decide
theorem t_below16 : ∀ t : BitVec 6, decide (t < 16) = true → t &&& 0x30 = 0 := by decide
theorem t_16to31 :
    ∀ t : BitVec 6, (decide (16 ≤ t) && decide (t < 32)) = true → t &&& 0x30 = 16 := by decide
theorem t_32to63 : ∀ t : BitVec 6, decide (32 ≤ t) = true → t &&& 0x20 = 32 := by decide

theorem rdCtrl : Statement .rdCtrl := fun _ => row_of_slot (m := 0x3F) rfl rfl rfl

theorem rdStatus : Statement .rdStatus := fun _ => row_of_slot (m := 0x3F) rfl rfl rfl

theorem rdSrcLo : Statement .rdSrcLo := fun _ => row_of_slot (m := 0x3F) rfl rfl rfl

theorem rdSrcHi : Statement .rdSrcHi := fun _ => row_of_slot (m := 0x3F) rfl rfl rfl

theorem rdLenLo : Statement .rdLenLo := fun _ => row_of_slot (m := 0x3F) rfl rfl rfl

theorem rdLenHi : Statement .rdLenHi := fun _ => row_of_slot (m := 0x3F) rfl rfl rfl

theorem rdReserved6to7 (slot : BitVec 6) : Statement (.rdReserved6to7 slot) := fun h =>
  row_of_slot rfl rfl (slot_6to7 slot (wf_of (by simp) h))

theorem rdDigest (n : BitVec 3) : Statement (.rdDigest n) :=
  fun _ => row_of_slot rfl rfl (slot_digest n)

theorem rdReserved16to31 (slot : BitVec 6) : Statement (.rdReserved16to31 slot) := fun h =>
  row_of_slot rfl rfl (slot_16to31 slot (wf_of (by simp) h))

theorem rdReserved32to63 (slot : BitVec 6) : Statement (.rdReserved32to63 slot) := fun h =>
  row_of_slot rfl rfl (slot_32to63 slot (wf_of (by simp) h))

theorem nop (ign : BitVec 28) : Statement (.nop ign) := fun _ => row_of_cmd (m := 0xF) rfl rfl rfl

theorem start (ign : BitVec 28) : Statement (.start ign) :=
  fun _ => row_of_cmd (m := 0xF) rfl rfl rfl

theorem wrCtrlReserved2to3 (ign : BitVec 28) (cmd : BitVec 4) : Statement (.wrCtrlReserved2to3 ign cmd) :=
  fun h => row_of_cmd rfl rfl (cmd_2to3 cmd (wf_of (by simp) h))

theorem wrCtrlReserved4to7 (ign : BitVec 28) (cmd : BitVec 4) : Statement (.wrCtrlReserved4to7 ign cmd) :=
  fun h => row_of_cmd rfl rfl (cmd_4to7 cmd (wf_of (by simp) h))

theorem wrCtrlReserved8toF (ign : BitVec 28) (cmd : BitVec 4) : Statement (.wrCtrlReserved8toF ign cmd) :=
  fun h => row_of_cmd rfl rfl (cmd_8toF cmd (wf_of (by simp) h))

theorem wrStatus (v : Word) : Statement (.wrStatus v) :=
  fun _ => row_of_slot (m := 0x3F) rfl rfl rfl

theorem wrSrcLo (v : Word) : Statement (.wrSrcLo v) := fun _ => row_of_slot (m := 0x3F) rfl rfl rfl

theorem wrSrcHi (v : Word) : Statement (.wrSrcHi v) := fun _ => row_of_slot (m := 0x3F) rfl rfl rfl

theorem wrLenLo (v : Word) : Statement (.wrLenLo v) := fun _ => row_of_slot (m := 0x3F) rfl rfl rfl

theorem wrLenHi (v : Word) : Statement (.wrLenHi v) := fun _ => row_of_slot (m := 0x3F) rfl rfl rfl

theorem wrReserved6to7 (slot : BitVec 6) (v : Word) : Statement (.wrReserved6to7 slot v) := fun h =>
  row_of_slot rfl rfl (slot_6to7 slot (wf_of (by simp) h))

theorem wrDigest (n : BitVec 3) (v : Word) : Statement (.wrDigest n v) :=
  fun _ => row_of_slot rfl rfl (slot_digest n)

theorem wrReserved16to31 (slot : BitVec 6) (v : Word) : Statement (.wrReserved16to31 slot v) :=
  fun h =>
  row_of_slot rfl rfl (slot_16to31 slot (wf_of (by simp) h))

theorem wrReserved32to63 (slot : BitVec 6) (v : Word) : Statement (.wrReserved32to63 slot v) :=
  fun h =>
  row_of_slot rfl rfl (slot_32to63 slot (wf_of (by simp) h))

theorem invalidRsv (we : BitVec 1) (slot : BitVec 6) (v : Word) :
    Statement (.invalidRsv we slot v) := fun _ => by
  have hw : we &&& (0 : BitVec 1) = 0 := BitVec.and_zero
  have hs : slot &&& (0 : BitVec 6) = 0 := BitVec.and_zero
  have hv : v &&& (0 : Word) = 0 := BitVec.and_zero
  have hm : htwWord 0 1 0 0 = (0x4000000000 : Htw) := rfl
  rw [encode, tableRow, inRow, ← hm, htwWord_and, hw, hs, hv, mask_all1, beq_iff_eq]

theorem frame : Statement .frame := fun _ => row_of_class (m := 0x3F) rfl rfl rfl

theorem loadw (t : BitVec 6) : Statement (.loadw t) :=
  fun h => row_of_class rfl rfl (t_below16 t (wf_of (by simp) h))

theorem expand16to31 (t : BitVec 6) : Statement (.expand16to31 t) :=
  fun h => row_of_class rfl rfl (t_16to31 t (wf_of (by simp) h))

theorem expand32to63 (t : BitVec 6) : Statement (.expand32to63 t) :=
  fun h => row_of_class rfl rfl (t_32to63 t (wf_of (by simp) h))

theorem initwv : Statement .initwv := fun _ => row_of_class (m := 0x3F) rfl rfl rfl

theorem round (t : BitVec 6) : Statement (.round t) :=
  fun _ => row_of_class (m := 0) rfl rfl BitVec.and_zero

theorem feedback : Statement .feedback := fun _ => row_of_class (m := 0x3F) rfl rfl rfl

theorem nextblk : Statement .nextblk := fun _ => row_of_class (m := 0x3F) rfl rfl rfl

theorem finish : Statement .finish := fun _ => row_of_class (m := 0x3F) rfl rfl rfl

end Sys2Proof.Laws.InTableRow
end

