-- ==== Sys2Proof/Tests/Slice0.lean ====
section
/-! SUPPORT. The model's own tests, each on one step or one word; expected results are the spec's
(95_test_vectors.md, 30_encoding.md R103, R105, or a hand calculation from the rule named). Then, for each
obligation with hypotheses, a state and operands that meet them. -/

namespace Sys2Proof.Tests

open Sys2Proof.Machine

/-! Well-formedness: a term that each check refuses, and the boundary it accepts. -/

theorem test_wf_slot67 : (Instr.rdReserved6to7 5).wellFormed = false ∧
    (Instr.rdReserved6to7 8).wellFormed = false ∧ (Instr.rdReserved6to7 7).wellFormed = true ∧
    (Instr.wrReserved6to7 8 0).wellFormed = false ∧ (Instr.wrReserved6to7 6 0).wellFormed = true := by
  decide

theorem test_wf_slot1631 : (Instr.rdReserved16to31 15).wellFormed = false ∧
    (Instr.rdReserved16to31 32).wellFormed = false ∧ (Instr.rdReserved16to31 31).wellFormed = true ∧
    (Instr.wrReserved16to31 32 0).wellFormed = false ∧
    (Instr.wrReserved16to31 15 0).wellFormed = false := by
  decide

theorem test_wf_slot3263 : (Instr.rdReserved32to63 31).wellFormed = false ∧
    (Instr.rdReserved32to63 63).wellFormed = true ∧
    (Instr.wrReserved32to63 31 0).wellFormed = false := by
  decide

theorem test_wf_cmd : (Instr.wrCtrlReserved2to3 0 1).wellFormed = false ∧
    (Instr.wrCtrlReserved2to3 0 4).wellFormed = false ∧
    (Instr.wrCtrlReserved4to7 0 3).wellFormed = false ∧
    (Instr.wrCtrlReserved4to7 0 8).wellFormed = false ∧
    (Instr.wrCtrlReserved8toF 0 7).wellFormed = false ∧
    (Instr.wrCtrlReserved8toF 0 15).wellFormed = true := by
  decide

theorem test_wf_index : (Instr.loadw 16).wellFormed = false ∧ (Instr.loadw 15).wellFormed = true ∧
    (Instr.expand16to31 15).wellFormed = false ∧ (Instr.expand16to31 32).wellFormed = false ∧
    (Instr.expand32to63 31).wellFormed = false ∧ (Instr.expand32to63 63).wellFormed = true := by
  decide

theorem test_wf_rsv : (Instr.invalidRsv 0 0 0).wellFormed = false := by
  decide

/-! Decoding: every row of the opcode table, from a word written out from its fields (R91, R93, R100,
R101). An HTW is WE, RSV, WIDX, DATA. -/

/-- The word with these fields, most significant first. -/
def word (we rsv : BitVec 1) (slot : BitVec 6) (v : Word) : Htw := we ++ rsv ++ slot ++ v

theorem test_decode_reads :
    decodeHtw (word 0b0 0b0 0b000000 0x00000000) = .ok .rdCtrl ∧
    decodeHtw (word 0b0 0b0 0b000001 0x00000000) = .ok .rdStatus ∧
    decodeHtw (word 0b0 0b0 0b000010 0x00000000) = .ok .rdSrcLo ∧
    decodeHtw (word 0b0 0b0 0b000011 0x00000000) = .ok .rdSrcHi ∧
    decodeHtw (word 0b0 0b0 0b000100 0x00000000) = .ok .rdLenLo ∧
    decodeHtw (word 0b0 0b0 0b000101 0xFFFFFFFF) = .ok .rdLenHi := by
  decide

theorem test_decode_read_slots :
    decodeHtw (word 0b0 0b0 0b000111 0x00000000) = .ok (.rdReserved6to7 7) ∧
    decodeHtw (word 0b0 0b0 0b001000 0x00000000) = .ok (.rdDigest 0) ∧
    decodeHtw (word 0b0 0b0 0b001111 0x00000000) = .ok (.rdDigest 7) ∧
    decodeHtw (word 0b0 0b0 0b010000 0x00000000) = .ok (.rdReserved16to31 16) ∧
    decodeHtw (word 0b0 0b0 0b100000 0x00000000) = .ok (.rdReserved32to63 32) := by
  decide

theorem test_decode_commands :
    decodeHtw (word 0b1 0b0 0b000000 0xFFFFFFF0) = .ok (.nop 0xFFFFFFF) ∧
    decodeHtw (word 0b1 0b0 0b000000 0x00000001) = .ok (.start 0) ∧
    decodeHtw (word 0b1 0b0 0b000000 0x00000013) = .ok (.wrCtrlReserved2to3 1 3) ∧
    decodeHtw (word 0b1 0b0 0b000000 0x00000004) = .ok (.wrCtrlReserved4to7 0 4) ∧
    decodeHtw (word 0b1 0b0 0b000000 0x0000000F) = .ok (.wrCtrlReserved8toF 0 15) := by
  decide

theorem test_decode_writes :
    decodeHtw (word 0b1 0b0 0b000001 0xFFFFFFFF) = .ok (.wrStatus 0xFFFFFFFF) ∧
    decodeHtw (word 0b1 0b0 0b000010 0x00000100) = .ok (.wrSrcLo 0x100) ∧
    decodeHtw (word 0b1 0b0 0b000011 0x00000001) = .ok (.wrSrcHi 1) ∧
    decodeHtw (word 0b1 0b0 0b000100 0x00000003) = .ok (.wrLenLo 3) ∧
    decodeHtw (word 0b1 0b0 0b000101 0x20000000) = .ok (.wrLenHi 0x20000000) := by
  decide

theorem test_decode_write_slots :
    decodeHtw (word 0b1 0b0 0b000110 0xFFFFFFFF) = .ok (.wrReserved6to7 6 0xFFFFFFFF) ∧
    decodeHtw (word 0b1 0b0 0b001001 0x00000005) = .ok (.wrDigest 1 5) ∧
    decodeHtw (word 0b1 0b0 0b011111 0x00000005) = .ok (.wrReserved16to31 31 5) ∧
    decodeHtw (word 0b1 0b0 0b111111 0x00000005) = .ok (.wrReserved32to63 63 5) := by
  decide

theorem test_decode_rsv : decodeHtw (word 0b1 0b1 0b000000 0x00000001) = .error .rsvSet := by
  decide

theorem test_decode_uops :
    decodeUop 0b000100000000 = .ok .frame ∧ decodeUop 0b001000001111 = .ok (.loadw 15) ∧
    decodeUop 0b001100010000 = .ok (.expand16to31 16) ∧
    decodeUop 0b001100111111 = .ok (.expand32to63 63) ∧
    decodeUop 0b010000000000 = .ok .initwv ∧ decodeUop 0b010100111111 = .ok (.round 63) ∧
    decodeUop 0b011000000000 = .ok .feedback ∧ decodeUop 0b011100000000 = .ok .nextblk ∧
    decodeUop 0b100000000000 = .ok .finish := by
  decide

theorem test_decode_uop_reserved :
    decodeUop 0b000000000000 = .error .reservedUop ∧ decodeUop 0b001000010000 = .error .reservedUop ∧
    decodeUop 0b001100001111 = .error .reservedUop ∧ decodeUop 0b010101000000 = .error .reservedUop ∧
    decodeUop 0b100000000001 = .error .reservedUop ∧ decodeUop 0b100100000000 = .error .reservedUop := by
  decide

/-- The host's two questions: the table's words, by their bit numbers (log 18). -/
theorem test_decode_table : decodeTableWord 40 0x8000000001 = some (.start 0) ∧
    decodeTableWord 16 0x53F = some (.round 63) ∧ decodeTableWord 40 0x4000000000 = none := by
  decide

/-- Encodings of R103 and R105, from the instruction. -/
theorem test_encode : encode (.start 0) = .htw 0x8000000001 ∧ encode .rdStatus = .htw 0x0100000000 ∧
    encode (.wrLenLo 3) = .htw 0x8400000003 ∧ encode (.rdDigest 7) = .htw 0x0F00000000 ∧
    encode (.round 63) = .uop 0x53F ∧ encode (.expand16to31 16) = .uop 0x310 := by
  decide

/-! The datapath, by the vectors V10 to V14. -/

theorem test_rotr : rotr 0x12345678 4 = 0x81234567 ∧ rotr 0xDEADBEEF 31 = 0xBD5B7DDF ∧
    shr 0x80000001 3 = 0x10000000 := by
  decide

theorem test_ch_maj : ch 0x510E527F 0x9B05688C 0x1F83D9AB = 0x1F85C98C ∧
    ch 0xF0F0F0F0 0xAAAAAAAA 0x55555555 = 0xA5A5A5A5 ∧
    maj 0x6A09E667 0xBB67AE85 0x3C6EF372 = 0x3A6FE667 := by
  decide

theorem test_sigmas : bsig0 0x12345678 = 0x66146474 ∧ bsig1 0x12345678 = 0x3561ABDA ∧
    ssig0 0x12345678 = 0xE7FCE6EE ∧ ssig1 0x12345678 = 0xA1F78649 := by
  decide

theorem test_roms : roundConst 0 = 0x428A2F98 ∧ roundConst 15 = 0xC19BF174 ∧
    roundConst 63 = 0xC67178F2 ∧ ivRom[0] = 0x6A09E667 ∧ ivRom[7] = 0x5BE0CD19 := by
  decide

/-- V15: padding quantities. -/
theorem test_padding : blockCount 0 = 1 ∧ blockCount 55 = 1 ∧ blockCount 56 = 2 ∧
    blockCount 119 = 2 ∧ blockCount 120 = 3 ∧ Ref.zeroBytes 64 = 55 ∧ Ref.zeroBytes 120 = 63 := by
  decide

/-- V25: digest bytes. -/
theorem test_digest_bytes : digestByte #v[0xBA7816BF, 0, 0, 0, 0, 0, 0, 0xF20015AD] 0 = 0xBA ∧
    digestByte #v[0xBA7816BF, 0, 0, 0, 0, 0, 0, 0xF20015AD] 3 = 0xBF ∧
    digestByte #v[0xBA7816BF, 0, 0, 0, 0, 0, 0, 0xF20015AD] 31 = 0xAD := by
  decide

/-! Single steps. -/

/-- The outcome is a next state of which `p` holds. -/
def holds (o : Host.Outcome State Fault Refusal) (p : State → Bool) : Bool :=
  match o with
  | .next t => p t
  | .fault _ => false
  | .refused _ => false

/-- "abc" at 0x100, MSG_SIZE = 0x1000, IDLE (P1). -/
def idleState : State :=
  { State.reset with
    msgSize := 0x1000, SRC := 0x100, LEN := 3, mem := [(0x100, 0x61), (0x101, 0x62), (0x102, 0x63)] }

/-- After its START. -/
def framingState : State := acceptStart idleState

/-- After FRAME: LOADW 0 is next. -/
def loadState : State := frameState framingState

/-- The last micro-operation of the block is next. -/
def finishState : State := setSeq 0x800 loadState

/-- A computation has ended. -/
def doneState : State := { loadState with phase := .done, H := ivRom }

theorem test_rdCtrl : holds (exec .rdCtrl { doneState with hRdata := 7 }) (·.hRdata == 0) = true := by
  decide

theorem test_rdStatus : holds (exec .rdStatus doneState) (·.hRdata == 0x32) = true ∧
    holds (exec .rdStatus loadState) (·.hRdata == 0x21) = true := by
  decide

theorem test_rdOperands :
    holds (exec .rdSrcLo { idleState with SRC := 0x1122334455667788 }) (·.hRdata == 0x55667788) = true ∧
    holds (exec .rdSrcHi { idleState with SRC := 0x1122334455667788 }) (·.hRdata == 0x11223344) = true ∧
    holds (exec .rdLenLo { idleState with LEN := 0x1122334455667788 }) (·.hRdata == 0x55667788) = true ∧
    holds (exec .rdLenHi { idleState with LEN := 0x1122334455667788 }) (·.hRdata == 0x11223344) = true := by
  decide

theorem test_rdDigest : holds (exec (.rdDigest 7) doneState) (·.hRdata == 0x5BE0CD19) = true ∧
    holds (exec (.rdDigest 7) framingState) (·.hRdata == 0) = true := by
  decide

theorem test_rdReserved :
    holds (exec (.rdReserved6to7 6) { doneState with hRdata := 7 }) (·.hRdata == 0) = true ∧
    holds (exec (.rdReserved16to31 16) { doneState with hRdata := 7 }) (·.hRdata == 0) = true ∧
    holds (exec (.rdReserved32to63 63) { doneState with hRdata := 7 }) (·.hRdata == 0) = true := by
  decide

theorem test_writes_taken :
    holds (exec (.wrSrcLo 0x55) { idleState with SRC := 0x1122334455667788 })
      (·.SRC == 0x1122334400000055) = true ∧
    holds (exec (.wrSrcHi 0x55) { idleState with SRC := 0x1122334455667788 })
      (·.SRC == 0x0000005555667788) = true ∧
    holds (exec (.wrLenLo 0x55) { doneState with LEN := 0x1122334455667788 })
      (·.LEN == 0x1122334400000055) = true ∧
    holds (exec (.wrLenHi 0x55) { doneState with LEN := 0x1122334455667788 })
      (·.LEN == 0x0000005555667788) = true := by
  decide

/-- V30 rows 13 and 14, and P4: dropped while BUSY. -/
theorem test_writes_dropped : holds (exec (.wrSrcLo 5) loadState) (· == loadState) = true ∧
    holds (exec (.wrSrcHi 5) loadState) (· == loadState) = true ∧
    holds (exec (.wrLenLo 5) loadState) (· == loadState) = true ∧
    holds (exec (.wrLenHi 5) framingState) (· == framingState) = true ∧
    holds (exec (.start 0) loadState) (· == loadState) = true := by
  decide

theorem test_writes_ignored : holds (exec (.nop 0xFFFFFFF) doneState) (· == doneState) = true ∧
    holds (exec (.wrCtrlReserved2to3 0 2) idleState) (· == idleState) = true ∧
    holds (exec (.wrCtrlReserved4to7 0 5) idleState) (· == idleState) = true ∧
    holds (exec (.wrCtrlReserved8toF 0 9) idleState) (· == idleState) = true ∧
    holds (exec (.wrStatus 0) doneState) (· == doneState) = true ∧
    holds (exec (.wrDigest 0 5) doneState) (· == doneState) = true ∧
    holds (exec (.wrReserved6to7 6 0xFFFFFFFF) idleState) (· == idleState) = true ∧
    holds (exec (.wrReserved16to31 16 5) idleState) (· == idleState) = true ∧
    holds (exec (.wrReserved32to63 32 5) idleState) (· == idleState) = true := by
  decide

/-- R240's example, and V30 row 11: an empty message at any address. -/
theorem test_start_accepted :
    holds (exec (.start 5) idleState)
      (fun t => t.statusWord == 0x11 && t.H == ivRom && t.seq == 0x100 && !t.evt) = true ∧
    holds (exec (.start 0) { idleState with SRC := 0xFFFFFFFFFFFFFFFF, LEN := 0 })
      (·.statusWord == 0x11) = true := by
  decide

/-- V30 rows 8, 9 and 10: LEN_TOO_LARGE before MSG_RANGE, and no wrap of SRC + L. -/
theorem test_start_rejected :
    holds (exec (.start 0) { doneState with LEN := 0x2000000000000000 })
      (fun t => t.statusWord == 0x104 && t.evt) = true ∧
    holds (exec (.start 0) { idleState with LEN := 0x1FFFFFFFFFFFFFFF })
      (·.statusWord == 0x204) = true ∧
    holds (exec (.start 0) { idleState with SRC := 0xFFFFFFFFFFFFFFFF, LEN := 2 })
      (·.statusWord == 0x204) = true := by
  decide

/-- V17: FRAME. -/
theorem test_frame :
    holds (exec .frame framingState)
      (fun t => t.BITLEN == 0x18 && t.NBLK == 1 && t.seq == 0x200 && t.phase == .perblock) = true ∧
    holds (exec .frame { framingState with LEN := 0x1FFFFFFFFFFFFFFF })
      (fun t => t.BITLEN == 0xFFFFFFFFFFFFFFF8 && t.NBLK.toNat == 2 ^ 55 + 1) = true := by
  decide

/-- V20: LOADW 0 mixes message bytes with 0x80; LOADW 15 takes the low word of BITLEN. -/
theorem test_loadw :
    holds (exec (.loadw 0) loadState) (fun t => t.W[0] == 0x61626380 && t.seq == 0x201) = true ∧
    holds (exec (.loadw 15) loadState) (fun t => t.W[15] == 0x18 && t.seq == 0x310) = true := by
  decide

/-- V20: EXPAND 17 of "abc" is s1 of W[15]; V13: EXPAND 63 over zeros but for W[61] is s1 of it. -/
theorem test_expand :
    holds (exec (.expand16to31 17) (setSched 15 0x18 loadState))
      (fun t => t.W[17] == 0x000F0000 && t.seq == 0x312) = true ∧
    holds (exec (.expand32to63 63) (setSched 61 0x12345678 loadState))
      (fun t => t.W[63] == 0xA1F78649 && t.seq == 0x400) = true := by
  decide

theorem test_initwv : holds (exec .initwv loadState)
    (fun t => t.wv.a == 0x6A09E667 && t.wv.h == 0x5BE0CD19 && t.seq == 0x500) = true := by
  decide

/-- V21: ROUND 0 of "abc". -/
theorem test_round : holds (exec (.round 0) (setWorkVars (hashVars ivRom) (setSched 0 0x61626380 loadState)))
    (fun t => t.wv.a == 0x5D6AEBCD && t.wv.b == 0x6A09E667 && t.wv.e == 0xFA2A4622 &&
      t.wv.h == 0x1F83D9AB && t.seq == 0x501) = true := by
  decide

/-- V23: H[0] of "abc"; one block, so FINISH is next. -/
theorem test_feedback :
    holds (exec .feedback (setWorkVars { hashVars ivRom with a := 0x506E3058 } loadState))
      (fun t => t.H[0] == 0xBA7816BF && t.seq == 0x800) = true ∧
    holds (exec .feedback { loadState with NBLK := 2 }) (·.seq == 0x700) = true := by
  decide

theorem test_nextblk : holds (exec .nextblk { loadState with NBLK := 2 })
    (fun t => t.blk == 1 && t.seq == 0x200 && t.phase == .perblock) = true := by
  decide

theorem test_finish : holds (exec .finish finishState)
    (fun t => t.statusWord == 0x32 && t.evt && t.H == ivRom) = true := by
  decide

theorem test_invalidRsv : exec (.invalidRsv 0 0 0) idleState = .refused .notATransaction := rfl

/-- Reset abandons a computation and keeps message memory (R300, R301). -/
theorem test_reset : holds (step { loadState with turns := [.rst] })
    (fun t => t.statusWord == 0 && t.SRC == 0 && t.LEN == 0 && t.mem == idleState.mem) = true := by
  decide

/-- The host's two questions for one word of each level: the placed instruction runs. -/
theorem test_placed : holds (step (State.reset.withFetchWord 40 0x8000000001)) (·.phase == .framing) = true ∧
    holds (step (State.reset.withFetchWord 16 0x20F)) (fun t => t.seq == 0x310 && t.turns == []) = true ∧
    holds (step (State.reset.withFetchWord 16 0x100)) (·.phase == .perblock) = true := by
  decide

/-- A host write of a message byte while BUSY marks the computation; one outside the message, or while
not BUSY, does not (R311). -/
theorem test_disturbed :
    holds (step { loadState with turns := [.memWrite 0x102 0x63] }) (·.msgDisturbed) = true ∧
    holds (step { loadState with turns := [.memWrite 0x103 0x63] }) (fun t => !t.msgDisturbed) = true ∧
    holds (step { idleState with turns := [.memWrite 0x102 0x63] }) (fun t => !t.msgDisturbed) = true := by
  decide

/-! Witnesses: for each obligation with hypotheses, a state and operands that meet them all, and for
one with several clauses a boundary value of each. -/

theorem idle_invariant : Invariant idleState :=
  ⟨by decide, by decide, by decide, by decide, fun h => absurd h (by decide), by decide,
    fun h => absurd h (by decide)⟩

theorem framing_invariant : Invariant framingState :=
  ⟨by decide, by decide, by decide, by decide, fun _ => ⟨by decide, by decide⟩, by decide,
    fun h => absurd h (by decide)⟩

theorem load_invariant : Invariant loadState :=
  ⟨by decide, by decide, by decide, by decide, fun _ => ⟨by decide, by decide⟩, by decide,
    fun _ => ⟨⟨by decide, by decide⟩, .loadw 0, by decide, show 0 < 1 by decide⟩⟩

theorem finish_invariant : Invariant finishState :=
  ⟨by decide, by decide, by decide, by decide, fun _ => ⟨by decide, by decide⟩, by decide,
    fun _ => ⟨⟨by decide, by decide⟩, .finish, by decide, show 0 + 1 = 1 by decide⟩⟩

theorem load_accepted : loadState.accepted := ⟨by decide, by decide⟩

theorem load_framed : loadState.framed := ⟨by decide, by decide⟩

theorem witness_EncodeThenDecode : (Instr.rdReserved32to63 63).WellFormed ∧
    (Instr.wrCtrlReserved8toF 0xFFFFFFF 15).WellFormed ∧ (Instr.expand16to31 31).WellFormed := by
  decide

theorem witness_DecodeThenEncode : decode (.htw 0x0F12345678) = .ok (.rdDigest 7) ∧
    decode (.uop 0x53F) = .ok (.round 63) := by
  decide

/-- A word for every class of the statement, at the bounds of WIDX and of CMD. -/
theorem witness_HtwClasses :
    (∀ x : Fin 64, (word 0 0 (BitVec.ofNat 6 x) 0xFFFFFFFF).toNat / 2 ^ 32 % 64 = x ∧
      (word 0 0 (BitVec.ofNat 6 x) 0xFFFFFFFF).getLsbD 38 = false ∧
      (word 0 0 (BitVec.ofNat 6 x) 0xFFFFFFFF).getLsbD 39 = false ∧
      (word 1 0 (BitVec.ofNat 6 x) 0).toNat / 2 ^ 32 % 64 = x ∧
      (word 1 0 (BitVec.ofNat 6 x) 0).getLsbD 38 = false ∧
      (word 1 0 (BitVec.ofNat 6 x) 0).getLsbD 39 = true) ∧
    (∀ c : Fin 16, (word 1 0 0 (BitVec.ofNat 32 (16 + c))).toNat / 2 ^ 32 % 64 = 0 ∧
      (word 1 0 0 (BitVec.ofNat 32 (16 + c))).toNat % 2 ^ 32 % 16 = c) ∧
    (word 0 1 0 0).getLsbD 38 = true := by
  decide

/-- UOP words at the bounds of the reserved sets, and next to them. -/
theorem witness_ReservedUopsRefused :
    (0x000 : Uop).toNat / 256 = 0 ∧ (0x900 : Uop).toNat / 256 = 9 ∧
    (0x540 : Uop).toNat / 64 % 4 = 1 ∧ (0x210 : Uop).toNat % 64 = 16 ∧
    (0x30F : Uop).toNat % 64 = 15 ∧ (0x801 : Uop).toNat % 64 = 1 ∧
    decodeUop 0x20F = .ok (.loadw 15) ∧ decodeUop 0x310 = .ok (.expand16to31 16) := by
  decide

theorem witness_StepRunsTransaction :
    (setTurns [.host 0x8000000001] idleState).turns = .host 0x8000000001 :: [] ∧
    decodeHtw 0x8000000001 = .ok (.start 0) := by
  decide

theorem witness_StepRunsMicroOperation : loadState.busy = true ∧
    decodeUop loadState.seq = .ok (.loadw 0) ∧ loadState.turns = [] ∧
    (setTurns [.engine] loadState).turns = .engine :: [] := by
  decide

theorem witness_EngineWaits : idleState.phase = .idle ∧ idleState.turns = [] ∧
    doneState.phase = .done ∧ (setTurns [.engine] doneState).turns = .engine :: [] := by
  decide

theorem witness_RotrMovesBits : 1 ≤ 1 ∧ 31 ≤ 31 ∧ 31 < 32 := by decide

theorem witness_PaddingQuantities : 2 ^ 61 - 1 ≤ 2 ^ 61 - 1 ∧ Ref.zeroBytes 56 = 63 ∧
    Ref.zeroBytes 55 = 0 ∧ 56 + 9 ≤ 64 * 2 := by
  decide

/-- The four cases of a padded byte at their bounds: L = 3, P = 64. -/
theorem witness_PaddedByteCases : loadState.accepted ∧ loadState.framed ∧
    64 * loadState.NBLK.toNat = 64 ∧ loadState.LEN.toNat = 3 ∧ 2 < 3 ∧ 3 < 4 ∧ 55 < 64 - 8 ∧
    64 - 8 ≤ 56 ∧ 63 < 64 :=
  ⟨load_accepted, load_framed, by decide⟩

theorem witness_PaddedByteIsStandard : loadState.accepted ∧ loadState.framed ∧
    63 < 64 * loadState.NBLK.toNat :=
  ⟨load_accepted, load_framed, by decide⟩

theorem witness_FrameResult : framingState.LEN.toNat < 2 ^ 61 ∧ Invariant framingState ∧
    framingState.busy = true ∧ idleState.busy = false ∧ idleState.accepted ∧
    ∃ t, exec (.start 0) idleState = .next t :=
  ⟨by decide, framing_invariant, by decide, by decide, ⟨by decide, by decide⟩, _, rfl⟩

theorem witness_LoadwResult : (15 : BitVec 6).toNat < 16 ∧ loadState.accepted ∧ loadState.framed ∧
    loadState.blk.toNat < loadState.NBLK.toNat ∧
    60 = 64 * loadState.blk.toNat + 4 * (15 : BitVec 6).toNat :=
  ⟨by decide, load_accepted, load_framed, by decide, by decide⟩

theorem witness_ExpandResult : 16 ≤ (16 : BitVec 6).toNat ∧ (31 : BitVec 6).toNat < 32 ∧
    32 ≤ (32 : BitVec 6).toNat ∧ 32 ≤ (63 : BitVec 6).toNat := by
  decide

/-- A memory that differs from the state's outside the message only. -/
theorem witness_LoadwReadsOnlyTheMessage :
    (∀ a, loadState.inMessage a = true →
      loadState.mem.read a = Memory.read [(0x100, 0x61), (0x101, 0x62), (0x102, 0x63), (0x200, 9)] a) ∧
    ∃ u, exec (.loadw 0) loadState = .next u := by
  refine ⟨fun a ha => ?_, _, rfl⟩
  have ha : a = 0x100 ∨ a = 0x101 ∨ a = 0x102 := by
    have h : 0x100 ≤ a ∧ a < 0x100 + 3 := by
      simpa [State.inMessage, loadState, framingState, idleState] using ha
    omega
  rcases ha with rfl | rfl | rfl <;> decide

theorem witness_ReservedUopFaults : 16 ≤ (16 : BitVec 6).toNat ∧ (15 : BitVec 6).toNat < 16 ∧
    32 ≤ (32 : BitVec 6).toNat ∧ (31 : BitVec 6).toNat < 32 ∧
    (setSeq 0x000 loadState).busy = true ∧ (setSeq 0x000 loadState).turns = [] ∧
    decodeUop (setSeq 0x000 loadState).seq = .error .reservedUop ∧
    (setTurns [.engine] (setSeq 0x000 loadState)).turns = .engine :: [] := by
  decide

/-- LOADW 0 of "abc" at 0x100, j = 0. First clause, at the third byte: MSG_SIZE is 0x102. Second, at the
first and at the last byte past L: NBLK is 0 and L is 0 or 2, MSG_SIZE is large. Third: the state as
FRAME leaves it. -/
theorem witness_LoadwFaultsOutside :
    (0 : BitVec 6).toNat < 16 ∧ 0 = 64 * loadState.blk.toNat + 4 * (0 : BitVec 6).toNat ∧
    (2 < 4 ∧ 0 + 2 < loadState.LEN.toNat ∧
      { loadState with msgSize := 0x102 }.msgSize ≤ loadState.SRC.toNat + (0 + 2)) ∧
    (∀ k, k < 4 → 0 + k < loadState.LEN.toNat →
      loadState.SRC.toNat + (0 + k) < loadState.msgSize) ∧
    ({ loadState with LEN := 0, NBLK := 0 }.LEN.toNat < 0 + 1 ∧
      64 * { loadState with LEN := 0, NBLK := 0 }.NBLK.toNat ≤ 0 + 1) ∧
    ({ loadState with LEN := 2, NBLK := 0 }.LEN.toNat < 0 + 3 ∧
      64 * { loadState with LEN := 2, NBLK := 0 }.NBLK.toNat ≤ 0 + 3) ∧
    (∀ k, k < 4 → loadState.LEN.toNat < 0 + k → 0 + k < 64 * loadState.NBLK.toNat) := by
  refine ⟨by decide, by decide, by decide, fun k hk _ => ?_, by decide, by decide, fun k hk _ => ?_⟩
  · show 0x100 + (0 + k) < 0x1000
    omega
  · show 0 + k < 64
    omega

theorem witness_RoundResult : ∃ S1 chv T1 S0 majv T2 : Word,
    S1 = loadState.wv.e.rotateRight 6 ^^^ loadState.wv.e.rotateRight 11 ^^^
      loadState.wv.e.rotateRight 25 ∧
    chv = (loadState.wv.e &&& loadState.wv.f) ^^^ (~~~loadState.wv.e &&& loadState.wv.g) ∧
    T1 = loadState.wv.h + S1 + chv + kRom[63] + loadState.W[63] ∧
    S0 = loadState.wv.a.rotateRight 2 ^^^ loadState.wv.a.rotateRight 13 ^^^
      loadState.wv.a.rotateRight 22 ∧
    majv = (loadState.wv.a &&& loadState.wv.b) ^^^ (loadState.wv.a &&& loadState.wv.c) ^^^
      (loadState.wv.b &&& loadState.wv.c) ∧
    T2 = S0 + majv :=
  ⟨_, _, _, _, _, _, rfl, rfl, rfl, rfl, rfl, rfl⟩

theorem witness_NextblkResult :
    { loadState with NBLK := 2 }.blk.toNat + 1 < { loadState with NBLK := 2 }.NBLK.toNat := by
  decide

theorem witness_FinishResult : finishState.msgDisturbed = false ∧ finishState.errcode = 0 := by
  decide

theorem witness_FinishDisturbed : { finishState with msgDisturbed := true }.msgDisturbed = true := rfl

theorem witness_DigestBytes : doneState.phase = .done := rfl

theorem witness_ReadCtrlAndReserved : Instr.rdCtrl = .rdCtrl ∧
    (∃ x, Instr.rdReserved6to7 7 = .rdReserved6to7 x) ∧
    (∃ x, Instr.rdReserved16to31 16 = .rdReserved16to31 x) ∧
    ∃ x, Instr.rdReserved32to63 63 = .rdReserved32to63 x :=
  ⟨rfl, ⟨_, rfl⟩, ⟨_, rfl⟩, ⟨_, rfl⟩⟩

/-- The words of the second clause, at the bounds of its ranges of WIDX. -/
theorem witness_ReadCtrlAndReserved_words :
    ∀ x ∈ [0, 6, 7, 16, 63], x = (word 0 0 (BitVec.ofNat 6 x) 0).toNat / 2 ^ 32 % 64 ∧
      (word 0 0 (BitVec.ofNat 6 x) 0).getLsbD 38 = false ∧
      (word 0 0 (BitVec.ofNat 6 x) 0).getLsbD 39 = false ∧ (x = 0 ∨ x = 6 ∨ x = 7 ∨ 16 ≤ x) := by
  decide

theorem witness_ReadStatus : Invariant loadState := load_invariant

theorem witness_StatusTable : Invariant idleState ∧ Invariant framingState ∧ Invariant loadState :=
  ⟨idle_invariant, framing_invariant, load_invariant⟩

theorem witness_OperandWrites : loadState.busy = true ∧ doneState.busy = false ∧
    (∃ t, exec (.wrLenHi 0x20000000) doneState = .next t) ∧
    0x20000000 ≤ (0x20000000 : Word).toNat :=
  ⟨by decide, by decide, ⟨_, rfl⟩, by decide⟩

theorem witness_OperandReadsBack : idleState.busy = false ∧
    (∃ t u, exec (.wrSrcHi 5) idleState = .next t ∧ exec .rdSrcHi t = .next u) ∧
    ∃ t u, exec (.wrLenLo 5) idleState = .next t ∧ exec .rdLenLo t = .next u :=
  ⟨by decide, ⟨_, _, rfl, rfl⟩, _, _, rfl, rfl⟩

theorem witness_WritesWithoutEffect : (∃ g, Instr.nop 1 = .nop g) ∧
    (∃ g c, Instr.wrCtrlReserved2to3 0 3 = .wrCtrlReserved2to3 g c) ∧
    (∃ g c, Instr.wrCtrlReserved4to7 0 7 = .wrCtrlReserved4to7 g c) ∧
    (∃ g c, Instr.wrCtrlReserved8toF 0 15 = .wrCtrlReserved8toF g c) ∧
    (∃ v, Instr.wrStatus 1 = .wrStatus v) ∧ (∃ n v, Instr.wrDigest 7 1 = .wrDigest n v) ∧
    (∃ x v, Instr.wrReserved6to7 7 1 = .wrReserved6to7 x v) ∧
    (∃ x v, Instr.wrReserved16to31 31 1 = .wrReserved16to31 x v) ∧
    ∃ x v, Instr.wrReserved32to63 63 1 = .wrReserved32to63 x v :=
  ⟨⟨_, rfl⟩, ⟨_, _, rfl⟩, ⟨_, _, rfl⟩, ⟨_, _, rfl⟩, ⟨_, rfl⟩, ⟨_, _, rfl⟩, ⟨_, _, rfl⟩, ⟨_, _, rfl⟩,
    ⟨_, _, rfl⟩⟩

/-- The words of the second clause: CTRL with CMD 0, 2 and 15, and the bounds of WIDX. -/
theorem witness_WritesWithoutEffect_words :
    ∀ p ∈ [(0, 0), (0, 2), (0, 15), (1, 1), (6, 1), (63, 1)],
      p.1 = (word 1 0 (BitVec.ofNat 6 p.1) (BitVec.ofNat 32 p.2)).toNat / 2 ^ 32 % 64 ∧
      (word 1 0 (BitVec.ofNat 6 p.1) (BitVec.ofNat 32 p.2)).getLsbD 38 = false ∧
      (word 1 0 (BitVec.ofNat 6 p.1) (BitVec.ofNat 32 p.2)).getLsbD 39 = true ∧
      ((p.1 = 0 ∧ (word 1 0 (BitVec.ofNat 6 p.1) (BitVec.ofNat 32 p.2)).toNat % 16 ≠ 1) ∨
        p.1 = 1 ∨ 6 ≤ p.1) := by
  decide

/-- The three clauses where they meet: L = 2^61; SRC + L one above MSG_SIZE, and L = 2^61 - 1; SRC + L
equal to MSG_SIZE, and L = 0. -/
theorem witness_StartWhileIdle : idleState.busy = false ∧
    (2 ^ 61 ≤ { idleState with LEN := 0x2000000000000000 }.LEN.toNat) ∧
    ({ idleState with LEN := 0x1FFFFFFFFFFFFFFF }.LEN.toNat < 2 ^ 61) ∧
    (0 < (1 : Dword).toNat ∧
      { idleState with SRC := 0x1000, LEN := 1 }.msgSize < (0x1000 : Dword).toNat + (1 : Dword).toNat) ∧
    ({ idleState with SRC := 0xFFF, LEN := 1 }.SRC.toNat + (1 : Dword).toNat ≤ idleState.msgSize) ∧
    { idleState with LEN := 0 }.LEN.toNat = 0 := by
  decide

theorem witness_StartWhileBusy : framingState.busy = true ∧ loadState.busy = true := by decide

/-- A rejected START in DONE, and a reset after one, change errcode. -/
theorem witness_OnlyStartAndResetSetErrcode :
    (∃ t, step { doneState with LEN := 0x2000000000000000, turns := [.host 0x8000000001] } = .next t ∧
      t.errcode ≠ doneState.errcode) ∧
    ∃ t, step { idleState with errcode := 2, turns := [.rst] } = .next t ∧ t.errcode ≠ 2 :=
  ⟨⟨_, rfl, by decide⟩, _, rfl, by decide⟩

/-- `evt` rises at FINISH and at a rejected START, and falls at an accepted START and at reset. -/
theorem witness_EvtRule :
    (∃ t, step finishState = .next t ∧ finishState.evt = false ∧ t.evt = true) ∧
    (∃ t, step { idleState with LEN := 0x2000000000000000, turns := [.host 0x8000000001] } = .next t ∧
      idleState.evt = false ∧ t.evt = true) ∧
    (∃ t, step { doneState with turns := [.host 0x8000000001] } = .next t ∧
      doneState.evt = true ∧ t.evt = false) ∧
    ∃ t, step { doneState with turns := [.rst] } = .next t ∧ t.evt = false :=
  ⟨⟨_, rfl, by decide, by decide⟩, ⟨_, rfl, by decide, by decide⟩, ⟨_, rfl, by decide, by decide⟩,
    _, rfl, by decide⟩

theorem witness_RsvIsRefused :
    (setTurns [.host 0x4000000000] idleState).turns = .host 0x4000000000 :: [] ∧
    (0x4000000000 : Htw).getLsbD 38 = true := by
  decide

theorem witness_PhaseMoves : Invariant framingState ∧ ∃ t, step framingState = .next t :=
  ⟨framing_invariant, _, rfl⟩

theorem witness_MemoryFrame : ∃ t, exec (.loadw 0) loadState = .next t := ⟨_, rfl⟩

/-- A read, a write and a transaction while BUSY. -/
theorem witness_HostTransactionFrame :
    (decodeHtw 0x0100000000 = .ok .rdStatus ∧ (0x0100000000 : Htw).getLsbD 39 = false ∧
      ∃ t, exec .rdStatus loadState = .next t) ∧
    (decodeHtw 0x8400000003 = .ok (.wrLenLo 3) ∧ (0x8400000003 : Htw).getLsbD 39 = true ∧
      ∃ t, exec (.wrLenLo 3) loadState = .next t) ∧ loadState.busy = true :=
  ⟨⟨by decide, by decide, _, rfl⟩, ⟨by decide, by decide, _, rfl⟩, by decide⟩

theorem witness_MicroOperationFrame : decodeUop 0x200 = .ok (.loadw 0) ∧
    ∃ t, exec (.loadw 0) loadState = .next t :=
  ⟨by decide, _, rfl⟩

theorem witness_OperandsStableWhileBusy : loadState.busy = true ∧ ∃ t, step loadState = .next t :=
  ⟨by decide, _, rfl⟩

/-- Two states in DONE that differ in the working variables and `blk`. -/
theorem witness_InternalStateIsHidden : decodeHtw 0x0800000000 = .ok (.rdDigest 0) ∧
    doneState ≠ { doneState with blk := 7, wv := hashVars ivRom } ∧
    doneState.H = { doneState with blk := 7, wv := hashVars ivRom }.H ∧
    (∃ t, exec (.rdDigest 0) doneState = .next t) ∧
    ∃ t, exec (.rdDigest 0) { doneState with blk := 7, wv := hashVars ivRom } = .next t :=
  ⟨by decide, by decide, rfl, ⟨_, rfl⟩, _, rfl⟩

theorem witness_ResetAtAnyMoment : (setTurns [.rst] loadState).turns = .rst :: [] := rfl

/-- A write at the last address of message memory, and one just past it. -/
theorem witness_HostWritesMemory :
    (setTurns [.memWrite 0xFFF 1] idleState).turns = .memWrite 0xFFF 1 :: [] ∧
    idleState.mem.wf = true ∧ (0xFFF : Dword).toNat < idleState.msgSize ∧
    idleState.msgSize ≤ (0x1000 : Dword).toNat := by
  decide

theorem witness_PseudoInstructions :
    (setTurns [.poll] loadState).turns = .poll :: [] ∧ loadState.statusWord.getLsbD 0 = true ∧
    doneState.statusWord.getLsbD 0 = false := by
  decide

theorem witness_StepKeepsInv : Invariant finishState ∧ ∃ t, step finishState = .next t :=
  ⟨finish_invariant, _, rfl⟩

theorem witness_OnlyTheHostCanStopIt : Invariant loadState := load_invariant

/-- The engine's turn, and a turn of another agent. -/
theorem witness_StepsCountDown :
    (Invariant framingState ∧ framingState.phase = .framing ∧ framingState.turns = [] ∧
      ∃ t, step framingState = .next t) ∧
    (Invariant loadState ∧ loadState.busy = true ∧
      ∃ t, step (setTurns [.host 0x0100000000] loadState) = .next t) ∧
    Turn.host 0x0100000000 ≠ .engine ∧ Turn.host 0x0100000000 ≠ .rst :=
  ⟨⟨framing_invariant, rfl, rfl, _, rfl⟩, ⟨load_invariant, by decide, _, rfl⟩, by decide, by decide⟩

theorem witness_BusyEngineReachesDone :
    Invariant loadState ∧ loadState.busy = true ∧ loadState.turns = [] ∧
    0 < loadState.stepsLeft ∧ 130 < loadState.stepsLeft :=
  ⟨load_invariant, by decide, rfl, by decide, by decide⟩

theorem witness_StepKeepsSha : Invariant framingState ∧ framingState.computes framingState.message ∧
    ∃ t, step framingState = .next t ∧ ¬(framingState.busy = false ∧ t.busy = true) ∧
      t.msgDisturbed = false :=
  ⟨framing_invariant, ⟨rfl, rfl⟩, _, rfl, by decide, rfl⟩

theorem witness_StartBeginsSha : idleState.busy = false ∧ idleState.accepted ∧
    ∃ t, exec (.start 0) idleState = .next t :=
  ⟨by decide, ⟨by decide, by decide⟩, _, rfl⟩

theorem witness_AcceptedStartLeavesTheDigest :
    Invariant (setTurns [.host 0x8000000001] idleState) ∧
    (setTurns [.host 0x8000000001] idleState).busy = false ∧
    (setTurns [.host 0x8000000001] idleState).accepted ∧
    (setTurns [.host 0x8000000001] idleState).turns = [.host 0x8000000001] ∧
    decodeHtw 0x8000000001 = .ok (.start 0) :=
  ⟨⟨by decide, by decide, by decide, by decide, fun h => absurd h (by decide), by decide,
    fun h => absurd h (by decide)⟩, by decide, ⟨by decide, by decide⟩, rfl, by decide⟩

end Sys2Proof.Tests
end

section
/-! SUPPORT. The reference SHA-256 by its recursion: the padded message byte by byte, and the schedule
word by word (41_padding.md R150, R151; 42_schedule.md R170, R171). -/

namespace Sys2Proof.Ref

open Sys2Proof.Machine (blockCount)

variable (M : List Byte)

/-! The padded message. -/

/-- The padding fills the last block exactly (41_padding.md R150). -/
theorem zeroBytes_add (len : Nat) : len + 1 + zeroBytes len + 8 = 64 * blockCount len := by
  unfold zeroBytes blockCount
  omega

theorem length_padded : (padded M).length = 64 * blockCount M.length := by
  rw [← zeroBytes_add]
  simp [padded, lengthBytes]
  omega

theorem blocks_eq : blocks M = blockCount M.length := by
  rw [blocks, length_padded, Nat.mul_div_cancel_left _ (by omega)]

variable {M} {j : Nat}

theorem byteAt_of_lt (h : j < M.length) : byteAt M j = M[j] := by
  simp [byteAt, padded, List.getElem?_append_left, h]

theorem byteAt_length : byteAt M M.length = 0x80 := by
  simp [byteAt, padded]

theorem byteAt_zero (h : M.length < j) (hj : j + 8 < 64 * blockCount M.length) :
    byteAt M j = 0x00 := by
  have hz := zeroBytes_add M.length
  have hlt : j - (M.length + 1) < zeroBytes M.length := by omega
  unfold byteAt padded
  rw [List.getD_append _ _ _ _ (by simp; omega), List.getD_append_right _ _ _ _ (by simp; omega)]
  simp [hlt]

/-- Byte k of the eight length bytes. -/
theorem getD_lengthBytes (len : Nat) {k : Nat} (h : k < 8) :
    (lengthBytes len).getD k 0 = BitVec.ofNat 8 (8 * len / 256 ^ (7 - k)) := by
  interval_cases k <;> rfl

theorem byteAt_lengthBytes (h : 64 * blockCount M.length ≤ j + 8)
    (hj : j < 64 * blockCount M.length) :
    byteAt M j =
      BitVec.ofNat 8 (8 * M.length / 256 ^ (7 - (j + 8 - 64 * blockCount M.length))) := by
  have hz := zeroBytes_add M.length
  have hk : j - (M.length + 1 + zeroBytes M.length) = j + 8 - 64 * blockCount M.length := by omega
  unfold byteAt padded
  rw [List.getD_append_right _ _ _ _ (by simp; omega)]
  simp only [List.length_append, List.length_singleton, List.length_replicate]
  rw [hk, getD_lengthBytes _ (by omega)]

/-! The schedule. -/

variable (M) (b : Nat)

theorem length_scheduleUpTo (n : Nat) : (scheduleUpTo M b n).length = n := by
  induction n with
  | zero => rfl
  | succ n ih => simp [scheduleUpTo, ih]

/-- Later words leave the earlier ones as they are. -/
theorem getD_scheduleUpTo {n k : Nat} (h : k < n) :
    (scheduleUpTo M b n).getD k 0 = sched M b k := by
  induction n with
  | zero => omega
  | succ n ih =>
    by_cases hk : k = n
    · rw [hk, sched]
    · rw [← ih (by omega), scheduleUpTo,
        List.getD_append _ _ _ _ (by rw [length_scheduleUpTo]; omega)]

theorem sched_eq (n : Nat) :
    sched M b n = if n < 16 then blockWord M b n
      else sched M b (n - 16) + s0 (sched M b (n - 15)) + sched M b (n - 7)
        + s1 (sched M b (n - 2)) := by
  conv_lhs => rw [sched, scheduleUpTo]
  rw [List.getD_append_right _ _ _ _ (by rw [length_scheduleUpTo]), length_scheduleUpTo,
    Nat.sub_self, List.getD_cons_zero]
  split
  · rfl
  · rw [getD_scheduleUpTo M b (by omega), getD_scheduleUpTo M b (by omega),
      getD_scheduleUpTo M b (by omega), getD_scheduleUpTo M b (by omega)]

theorem sched_of_lt {n : Nat} (h : n < 16) : sched M b n = blockWord M b n := by
  rw [sched_eq, if_pos h]

theorem sched_of_ge {n : Nat} (h : 16 ≤ n) :
    sched M b n = sched M b (n - 16) + s0 (sched M b (n - 15)) + sched M b (n - 7)
      + s1 (sched M b (n - 2)) := by
  rw [sched_eq, if_neg (by omega)]

end Sys2Proof.Ref
end

section
/-! SUPPORT. The engine's padding and datapath are those of the reference SHA-256 (40_datapath.md R120
to R128; 41_padding.md R151; 43_compression.md R190 to R192). -/

namespace Sys2Proof.Machine

/-! The datapath. -/

theorem rotr_eq_rotateRight (x : Word) {n : Nat} (h : n < 32) : rotr x n = x.rotateRight n := by
  rw [rotr, BitVec.rotateRight_def, Nat.mod_eq_of_lt h]

theorem ssig0_eq (x : Word) : ssig0 x = Ref.s0 x := by
  simp [ssig0, Ref.s0, shr, rotr_eq_rotateRight]

theorem ssig1_eq (x : Word) : ssig1 x = Ref.s1 x := by
  simp [ssig1, Ref.s1, shr, rotr_eq_rotateRight]

theorem roundVars_eq (v : WorkVars) (k w : Word) : roundVars v k w = Ref.round v k w := by
  simp [roundVars, roundT1, roundT2, Ref.round, bsig0, bsig1, ch, maj, rotr_eq_rotateRight]

theorem roundConst_eq (t : BitVec 6) : roundConst t = kRom[t.toNat]?.getD 0 := by
  have h : t.toNat < 64 := t.isLt
  simp [roundConst, h]

/-! The padded bytes of an accepted, framed input. -/

variable {s : State}

theorem length_message (s : State) : s.message.length = s.LEN.toNat := by
  simp [State.message]

theorem paddedLen_of_framed (hf : s.framed) : s.paddedLen = 64 * blockCount s.message.length := by
  rw [State.paddedLen, hf.2, length_message]

/-- Byte k of the big-endian length is a quotient of it. -/
theorem beByte8_eq (v : Dword) (k : Nat) :
    beByte8 v k = BitVec.ofNat 8 (v.toNat / 256 ^ (7 - k)) := by
  apply BitVec.eq_of_toNat_eq
  rw [beByte8, BitVec.extractLsb'_toNat, BitVec.toNat_ofNat, Nat.shiftRight_eq_div_pow, pow_mul,
    show 2 ^ 8 = 256 from rfl]

/-- Each padded byte is that of the padded message (41_padding.md R151). -/
theorem padByte_eq_byteAt (ha : s.accepted) (hf : s.framed) {j : Nat} (hj : j < s.paddedLen) :
    padByte s j = .ok (Ref.byteAt s.message j) := by
  have hp := paddedLen_of_framed hf
  have hl := length_message s
  rcases padByte_cases s j with ⟨h, e⟩ | ⟨h, e⟩ | ⟨h, h8, e⟩ | ⟨h, h8, -, e⟩ | ⟨-, h, -⟩
  · have hin : s.SRC.toNat + j < s.msgSize := by have := ha.2; omega
    rw [e, memRead_eq_ok hin, Ref.byteAt_of_lt (hl ▸ h)]
    simp [State.message]
  · rw [e, h, ← hl, Ref.byteAt_length]
  · rw [e, Ref.byteAt_zero (by omega) (by omega)]
  · rw [e, Ref.byteAt_lengthBytes (by omega) (by omega), beByte8_eq, hf.1, hp, hl]
  · omega

/-- Each schedule word that LOADW builds is that of the padded message (42_schedule.md R170). -/
theorem padWord_eq_blockWord (ha : s.accepted) (hf : s.framed) {b t : Nat}
    (hb : b < s.NBLK.toNat) (ht : t < 16) :
    padWord s (64 * b + 4 * t) = .ok (Ref.blockWord s.message b t) := by
  have byte : ∀ k, k < 4 → padByte s (64 * b + 4 * t + k) =
      .ok (Ref.byteAt s.message (64 * b + 4 * t + k)) := fun k hk =>
    padByte_eq_byteAt ha hf (by rw [State.paddedLen]; omega)
  exact padWord_eq_ok (byte 0 (by omega)) (byte 1 (by omega)) (byte 2 (by omega))
    (byte 3 (by omega))

end Sys2Proof.Machine
end

section
/-! SUPPORT. One micro-operation under the invariant: it answers, keeps the invariant, takes one from the
count of steps, and stays on SHA-256 of the message (44_sequencer_serialization.md R213, R216). -/

namespace Sys2Proof.Machine

variable {s t : State} {i : Instr} {x : BitVec 6} {M : List Byte}

/-! What the invariant says of a BUSY engine's micro-operation. -/

theorem blockCount_pos (len : Nat) : 0 < blockCount len := Nat.succ_pos _

/-- NBLK of an accepted length fits its 56 bits (41_padding.md R150). -/
theorem blockCount_lt {len : Nat} (h : len < 2 ^ 61) : blockCount len < 2 ^ 56 := by
  unfold blockCount
  omega

/-- FRAME loses no bit of an accepted length (41_padding.md R153). -/
theorem frameState_framed (h : s.LEN.toNat < 2 ^ 61) : (frameState s).framed := by
  have hb : (bitLength s.LEN).toNat = 8 * s.LEN.toNat := by
    unfold bitLength
    rw [BitVec.toNat_mul]
    exact Nat.mod_eq_of_lt (by simp; omega)
  have hn : (BitVec.ofNat 56 (blockCount s.LEN.toNat)).toNat = blockCount s.LEN.toNat := by
    rw [BitVec.toNat_ofNat, Nat.mod_eq_of_lt (blockCount_lt h)]
  exact ⟨hb, hn⟩

/-- `seq` of a BUSY engine: FRAME in FRAMING, else a micro-operation that fits the block. -/
theorem Invariant.seq_cases (hI : Invariant s) (hb : s.busy = true)
    (hd : decodeUop s.seq = .ok i) :
    (s.phase = .framing ∧ i = .frame) ∨ (s.phase = .perblock ∧ s.framed ∧ s.fits i) := by
  rcases (busy_iff s).1 hb with hp | hp
  · rw [hI.framing hp] at hd
    cases hd
    exact .inl ⟨hp, rfl⟩
  · obtain ⟨hf, j, hj, hfit⟩ := hI.perblock hp
    rw [hd] at hj
    cases hj
    exact .inr ⟨hp, hf, hfit⟩

/-- A BUSY engine has a micro-operation. -/
theorem Invariant.exists_decode (hI : Invariant s) (hb : s.busy = true) :
    ∃ i, decodeUop s.seq = .ok i := by
  rcases (busy_iff s).1 hb with hp | hp
  · exact ⟨.frame, by rw [hI.framing hp]; rfl⟩
  · obtain ⟨-, j, hj, -⟩ := hI.perblock hp
    exact ⟨j, hj⟩

/-- LOADW under the invariant writes the reference's schedule word. -/
theorem padWord_eq_sched (ha : s.accepted) (hf : s.framed) (hb : s.blk.toNat < s.NBLK.toNat)
    (hx : x < 16) :
    padWord s (s.wordPos x) = .ok (Ref.sched s.message s.blk.toNat x.toNat) := by
  have hx : x.toNat < 16 := hx
  rw [State.wordPos, padWord_eq_blockWord ha hf hb hx, Ref.sched_of_lt _ _ hx]

/-- Under the invariant the engine never faults. -/
theorem Invariant.uop_answers (hI : Invariant s) (hb : s.busy = true)
    (hd : decodeUop s.seq = .ok i) : ∃ t, exec i s = .next t := by
  rcases decodeUop_ok hd with ⟨rfl, -⟩ | ⟨x, hx, rfl, -⟩ | ⟨x, h1, h2, rfl, -⟩ | ⟨x, h1, rfl, -⟩ |
    ⟨rfl, -⟩ | ⟨x, rfl, -⟩ | ⟨rfl, -⟩ | ⟨rfl, -⟩ | ⟨rfl, -⟩
  case inr.inl =>
    rcases hI.seq_cases hb hd with ⟨-, h⟩ | ⟨-, hf, hfit⟩
    · cases h
    · exact ⟨_, by rw [exec, execLoadw, if_pos hx, padWord_eq_sched (hI.input hb) hf hfit hx]⟩
  case inr.inr.inl => exact ⟨_, by rw [exec, execExpand16to31, if_pos ⟨h1, h2⟩]⟩
  case inr.inr.inr.inl => exact ⟨_, by rw [exec, execExpand32to63, if_pos h1]⟩
  all_goals exact ⟨_, rfl⟩

/-! The micro-operations inside a block. -/

/-- `i` of `s` leads to `j` of `t` inside PERBLOCK: `j` is next and fits, one step fewer is left, and
the datapath stays on SHA-256 of the message. -/
structure Advances (s : State) (i : Instr) (t : State) (j : Instr) : Prop where
  decodes : decodeUop t.seq = .ok j
  fits : t.fits j
  count : blockStepsFrom j + 131 * (t.NBLK.toNat - 1 - t.blk.toNat) + 1 =
    blockStepsFrom i + 131 * (s.NBLK.toNat - 1 - s.blk.toNat)
  follows : s.follows s.message i → t.follows s.message j

/-- Every micro-operation but NEXTBLK stays in its block. -/
theorem Advances.of_sameBlock {j : Instr} (decodes : decodeUop t.seq = .ok j) (fits : t.fits j)
    (hblk : t.blk = s.blk) (hNBLK : t.NBLK = s.NBLK)
    (hsteps : blockStepsFrom j + 1 = blockStepsFrom i)
    (follows : s.follows s.message i → t.follows s.message j) : Advances s i t j :=
  ⟨decodes, fits, by rw [hblk, hNBLK]; omega, follows⟩

/-- Writing the next schedule word extends the part of the schedule that stands. -/
theorem schedFollows_setSched {v : Word} (h : s.schedFollows M x.toNat)
    (hv : v = Ref.sched M s.blk.toNat x.toNat) :
    (setSched x v s).schedFollows M (x.toNat + 1) := by
  intro k hk
  by_cases hkx : x.toNat = k.val
  · simp [hkx, hv]
  · have := h k (by omega)
    simpa [hkx] using this

/-- `i` is LOADW `x` or EXPAND `x`. -/
def IsSchedOp (i : Instr) (x : BitVec 6) : Prop :=
  i = .loadw x ∨ i = .expand16to31 x ∨ i = .expand32to63 x

theorem IsSchedOp.fits_iff (h : IsSchedOp i x) : s.fits i ↔ s.blk.toNat < s.NBLK.toNat := by
  rcases h with rfl | rfl | rfl <;> exact Iff.rfl

theorem IsSchedOp.steps (h : IsSchedOp i x) : blockStepsFrom i = 131 - x.toNat := by
  rcases h with rfl | rfl | rfl <;> rfl

theorem IsSchedOp.follows_iff (h : IsSchedOp i x) :
    s.follows M i ↔ s.H = Ref.hashUpTo M s.blk.toNat ∧ s.schedFollows M x.toNat := by
  rcases h with rfl | rfl | rfl <;> exact Iff.rfl

/-- `u` leads on from schedule word `x`: to the micro-operation of the next word, or to INITWV. -/
def LeadsOn (x : BitVec 6) (u : Uop) : Prop :=
  (∃ j y, decodeUop u = .ok j ∧ IsSchedOp j y ∧ y.toNat = x.toNat + 1) ∨
    (x.toNat = 63 ∧ decodeUop u = .ok .initwv)

theorem afterLoadw_leadsOn (hx : x < 16) : LeadsOn x (afterLoadw x) := by
  rcases decode_afterLoadw x hx with ⟨-, hn, hd⟩ | ⟨h, hd⟩
  · exact .inl ⟨_, x + 1, hd, .inl rfl, hn⟩
  · exact .inl ⟨_, 16, hd, .inr (.inl rfl), by rw [h]; rfl⟩

theorem afterExpand_leadsOn (hx : 16 ≤ x) : LeadsOn x (afterExpand x) := by
  rcases decode_afterExpand x hx with ⟨-, hn, hd⟩ | ⟨-, -, hn, hd⟩ | ⟨h, hd⟩
  · exact .inl ⟨_, x + 1, hd, .inr (.inl rfl), hn⟩
  · exact .inl ⟨_, x + 1, hd, .inr (.inr rfl), hn⟩
  · exact .inr ⟨h, hd⟩

/-- LOADW and EXPAND at once: the word written is the reference's. -/
theorem schedOp_advances {v : Word} {u : Uop} (hi : IsSchedOp i x) (hfit : s.fits i)
    (hu : LeadsOn x u)
    (hv : s.follows s.message i → v = Ref.sched s.message s.blk.toNat x.toNat) :
    ∃ j, Advances s i (setSeq u (setSched x v s)) j := by
  have hb := hi.fits_iff.1 hfit
  have hx : x.toNat < 64 := x.isLt
  have hfol (h : s.follows s.message i) :
      (setSched x v s).schedFollows s.message (x.toNat + 1) :=
    schedFollows_setSched (hi.follows_iff.1 h).2 (hv h)
  have hH (h : s.follows s.message i) := (hi.follows_iff.1 h).1
  rcases hu with ⟨j, y, hd, hj, hy⟩ | ⟨hx, hd⟩
  · exact ⟨j, .of_sameBlock hd (hj.fits_iff.2 hb) rfl rfl (by rw [hi.steps, hj.steps]; omega)
      fun h => hj.follows_iff.2 ⟨hH h, hy ▸ hfol h⟩⟩
  · rw [hx] at hfol
    exact ⟨_, .of_sameBlock hd hb rfl rfl (by rw [hi.steps, hx]; rfl) fun h => ⟨hH h, hfol h⟩⟩

/-- A word of the schedule that stands is the reference's. -/
theorem schedAt_eq {n : Nat} (h : s.schedFollows M n) (hx : x.toNat < n) :
    s.schedAt x = Ref.sched M s.blk.toNat x.toNat :=
  h ⟨x.toNat, x.isLt⟩ hx

/-- EXPAND computes the reference's schedule word (42_schedule.md R171). -/
theorem expandWord_eq (h : s.schedFollows M x.toNat) (hx : 16 ≤ x) :
    expandWord x s = Ref.sched M s.blk.toNat x.toNat := by
  have hx : 16 ≤ x.toNat := hx
  have word (k : BitVec 6) (h0 : 0 < k.toNat) (hk : k.toNat ≤ 16) :
      s.schedAt (x - k) = Ref.sched M s.blk.toNat (x.toNat - k.toNat) := by
    have hsub : (x - k).toNat = x.toNat - k.toNat :=
      BitVec.toNat_sub_of_le (BitVec.le_def.2 (by omega))
    rw [schedAt_eq h (by omega), hsub]
  rw [expandWord, word 16 (by decide) (by decide), word 15 (by decide) (by decide),
    word 7 (by decide) (by decide), word 2 (by decide) (by decide), Ref.sched_of_ge _ _ hx,
    ssig0_eq, ssig1_eq]
  rfl

theorem initwv_advances (hfit : s.fits .initwv) :
    Advances s .initwv (setSeq (uopWord 5 0) (setWorkVars (hashVars s.H) s)) (.round 0) :=
  .of_sameBlock decode_round0 hfit rfl rfl rfl fun ⟨hH, hW⟩ => ⟨hH, hW, rfl⟩

theorem round_advances (hfit : s.fits (.round x)) :
    ∃ j, Advances s (.round x) (setSeq (afterRound x)
      (setWorkVars (roundVars s.wv (roundConst x) (s.schedAt x)) s)) j := by
  have hvars (h : s.follows s.message (.round x)) :
      roundVars s.wv (roundConst x) (s.schedAt x) =
        Ref.rounds s.message s.blk.toNat s.H (x.toNat + 1) := by
    obtain ⟨-, hW, hwv⟩ := h
    rw [roundVars_eq, roundConst_eq, schedAt_eq hW x.isLt, hwv, Ref.rounds]
  rcases decode_afterRound x with ⟨hlt, hn, hd⟩ | ⟨hx, hd⟩
  · have hsteps : 66 - (x + 1).toNat + 1 = 66 - x.toNat := by omega
    exact ⟨_, .of_sameBlock hd hfit rfl rfl hsteps fun h => ⟨h.1, h.2.1, hn ▸ hvars h⟩⟩
  · rw [hx] at hvars
    have hsteps : 2 + 1 = 66 - x.toNat := by omega
    exact ⟨_, .of_sameBlock hd hfit rfl rfl hsteps fun h => ⟨h.1, hvars h⟩⟩

theorem feedback_advances (hfit : s.fits .feedback) :
    ∃ j, Advances s .feedback (setSeq (afterFeedback s) (setHash (addVars s.H s.wv) s)) j := by
  have hhash (h : s.follows s.message .feedback) :
      addVars s.H s.wv = Ref.hashUpTo s.message (s.blk.toNat + 1) := by
    obtain ⟨hH, hwv⟩ := h
    rw [hwv, Ref.hashUpTo, ← hH]
    rfl
  have hfit : s.blk.toNat < s.NBLK.toNat := hfit
  rcases decode_afterFeedback s with ⟨hlt, hd⟩ | ⟨hle, hd⟩
  · exact ⟨_, .of_sameBlock hd hlt rfl rfl rfl hhash⟩
  · exact ⟨_, .of_sameBlock hd (Nat.le_antisymm hfit hle) rfl rfl rfl hhash⟩

/-- NEXTBLK does not wrap (44_sequencer_serialization.md R211). -/
theorem nextblk_toNat (hfit : s.fits .nextblk) : (s.blk + 1).toNat = s.blk.toNat + 1 := by
  have hfit : s.blk.toNat + 1 < s.NBLK.toNat := hfit
  have := s.NBLK.isLt
  rw [BitVec.toNat_add]
  exact Nat.mod_eq_of_lt (by simp; omega)

theorem nextblk_advances (hfit : s.fits .nextblk) :
    Advances s .nextblk (setSeq (uopWord 2 0) { s with blk := s.blk + 1 }) (.loadw 0) := by
  have hb := nextblk_toNat hfit
  have hfit : s.blk.toNat + 1 < s.NBLK.toNat := hfit
  refine ⟨decode_loadw0, ?_, ?_, fun h => ⟨?_, fun k hk => absurd hk (Nat.not_lt_zero _)⟩⟩
  · show (s.blk + 1).toNat < s.NBLK.toNat
    omega
  · show 131 + 131 * (s.NBLK.toNat - 1 - (s.blk + 1).toNat) + 1 =
      1 + 131 * (s.NBLK.toNat - 1 - s.blk.toNat)
    omega
  · show s.H = Ref.hashUpTo s.message (s.blk + 1).toNat
    rw [hb]
    exact h

end Sys2Proof.Machine
end

section
/-! SUPPORT. What each micro-operation of a BUSY engine keeps, and the run of the engine alone up to DONE
(44_sequencer_serialization.md R210 to R216). -/

namespace Sys2Proof.Machine

variable {s t : State} {i : Instr} {M : List Byte}

/-- What no micro-operation changes: the input, message memory, and the turns still to come. -/
structure KeepsInput (s t : State) : Prop where
  errcode : t.errcode = s.errcode
  SRC : t.SRC = s.SRC
  LEN : t.LEN = s.LEN
  mem : t.mem = s.mem
  msgSize : t.msgSize = s.msgSize
  hRdata : t.hRdata = s.hRdata
  turns : t.turns = s.turns
  msgDisturbed : t.msgDisturbed = s.msgDisturbed

theorem uop_keepsInput {u : Uop} (hd : decodeUop u = .ok i) (hx : exec i s = .next t) :
    KeepsInput s t := by
  rcases uop_cases hd hx with ⟨-, rfl⟩ | ⟨x, v, -, -, -, rfl⟩ | ⟨x, -, rfl⟩ | ⟨-, rfl⟩ |
    ⟨x, -, rfl⟩ | ⟨-, rfl⟩ | ⟨-, rfl⟩ | ⟨-, rfl⟩
  case inr.inr.inr.inr.inr.inr.inr => constructor <;> simp
  all_goals exact ⟨rfl, rfl, rfl, rfl, rfl, rfl, rfl, rfl⟩

theorem KeepsInput.message (h : KeepsInput s t) : t.message = s.message := by
  simp only [State.message, h.LEN, h.SRC, h.mem]

theorem KeepsInput.accepted (h : KeepsInput s t) : s.accepted → t.accepted := by
  simp only [State.accepted, h.LEN, h.SRC, h.msgSize, imp_self]

/-- Everything the micro-operation of a BUSY engine can do under the invariant: FRAME, a move inside
PERBLOCK, or FINISH in the last block (44_sequencer_serialization.md R210). -/
theorem Invariant.uop_moves (hI : Invariant s) (hb : s.busy = true)
    (hd : decodeUop s.seq = .ok i) (hx : exec i s = .next t) :
    (s.phase = .framing ∧ t = frameState s) ∨
      (s.phase = .perblock ∧ t.phase = .perblock ∧ t.framed ∧ ∃ j, Advances s i t j) ∨
      (s.phase = .perblock ∧ s.framed ∧ i = .finish ∧ s.blk.toNat + 1 = s.NBLK.toNat ∧
        t = { settleHash s with phase := .done }) := by
  rcases hI.seq_cases hb hd with ⟨hp, rfl⟩ | ⟨hp, hf, hfit⟩
  · cases hx
    exact .inl ⟨hp, rfl⟩
  rcases uop_cases hd hx with ⟨rfl, -⟩ | ⟨x, v, rfl, hlt, hv, rfl⟩ | ⟨x, hi, rfl⟩ |
    ⟨rfl, rfl⟩ | ⟨x, rfl, rfl⟩ | ⟨rfl, rfl⟩ | ⟨rfl, rfl⟩ | ⟨rfl, rfl⟩
  · exact hfit.elim
  · rw [padWord_eq_sched (hI.input hb) hf hfit hlt] at hv
    cases hv
    exact .inr (.inl ⟨hp, hp, hf,
      schedOp_advances (.inl rfl) hfit (afterLoadw_leadsOn hlt) fun _ => rfl⟩)
  · have hi : IsSchedOp i x ∧ 16 ≤ x := by
      rcases hi with ⟨rfl, h, -⟩ | ⟨rfl, h⟩
      · exact ⟨.inr (.inl rfl), h⟩
      · exact ⟨.inr (.inr rfl), BitVec.le_trans (by decide) h⟩
    exact .inr (.inl ⟨hp, hp, hf, schedOp_advances hi.1 hfit (afterExpand_leadsOn hi.2)
      fun h => expandWord_eq (hi.1.follows_iff.1 h).2 hi.2⟩)
  · exact .inr (.inl ⟨hp, hp, hf, _, initwv_advances hfit⟩)
  · exact .inr (.inl ⟨hp, hp, hf, round_advances hfit⟩)
  · exact .inr (.inl ⟨hp, hp, hf, feedback_advances hfit⟩)
  · exact .inr (.inl ⟨hp, hp, hf, _, nextblk_advances hfit⟩)
  · exact .inr (.inr ⟨hp, hf, rfl, hfit, rfl⟩)

theorem errcode_of_busy (hI : Invariant s) (hb : s.busy = true) : s.errcode = 0 := by
  rcases hI.status with ⟨hp, -⟩ | ⟨-, he⟩
  · simp [State.busy, hp] at hb
  · exact he

/-- After a micro-operation the engine is in PERBLOCK with a micro-operation that fits, or in DONE. -/
theorem Invariant.uop_phase (hI : Invariant s) (hb : s.busy = true)
    (hd : decodeUop s.seq = .ok i) (hx : exec i s = .next t) :
    (t.phase = .perblock ∧ t.framed ∧ t.seqFits) ∨ t.phase = .done := by
  rcases hI.uop_moves hb hd hx with ⟨-, rfl⟩ | ⟨-, hp, hf, j, hj⟩ | ⟨-, -, -, -, rfl⟩
  · have hf := frameState_framed (hI.input hb).1
    have hfit : 0 < (frameState s).NBLK.toNat := hf.2 ▸ blockCount_pos _
    exact .inl ⟨rfl, hf, .loadw 0, decode_loadw0, hfit⟩
  · exact .inl ⟨hp, hf, j, hj.decodes, hj.fits⟩
  · exact .inr rfl

/-- Every micro-operation keeps the invariant. -/
theorem Invariant.uop_keeps (hI : Invariant s) (hb : s.busy = true)
    (hd : decodeUop s.seq = .ok i) (hx : exec i s = .next t) : Invariant t := by
  have hk := uop_keepsInput hd hx
  have hp := hI.uop_phase hb hd hx
  exact
    { memWf := hk.mem ▸ hI.memWf
      memInside := by rw [hk.mem, hk.msgSize]; exact hI.memInside
      size := hk.msgSize ▸ hI.size
      status := .inr ⟨by rcases hp with ⟨h, -⟩ | h <;> simp [h],
        hk.errcode.trans (errcode_of_busy hI hb)⟩
      input := fun _ => hk.accepted (hI.input hb)
      framing := fun h => by rcases hp with ⟨hp, -⟩ | hp <;> simp [hp] at h
      perblock := fun h => by
        rcases hp with ⟨-, hfits⟩ | hp
        · exact hfits
        · simp [hp] at h }

/-! The count of steps. -/

theorem stepsLeft_framing (hp : s.phase = .framing) :
    s.stepsLeft = 1 + 131 * blockCount s.LEN.toNat := by
  simp only [State.stepsLeft, hp]

theorem stepsLeft_perblock (hp : s.phase = .perblock) (hd : decodeUop s.seq = .ok i) :
    s.stepsLeft = blockStepsFrom i + 131 * (s.NBLK.toNat - 1 - s.blk.toNat) := by
  simp only [State.stepsLeft, hp, hd]

theorem busy_of_stepsLeft_ne_zero (h : s.stepsLeft ≠ 0) : s.busy = true := by
  rw [busy_iff]
  cases hp : s.phase <;> simp_all [State.stepsLeft]

/-- Each micro-operation takes one from the count (44_sequencer_serialization.md R213). -/
theorem Invariant.uop_counts (hI : Invariant s) (hb : s.busy = true)
    (hd : decodeUop s.seq = .ok i) (hx : exec i s = .next t) :
    t.stepsLeft + 1 = s.stepsLeft := by
  rcases hI.uop_moves hb hd hx with ⟨hp, rfl⟩ | ⟨hp, hpt, -, j, hj⟩ | ⟨hp, -, rfl, hlast, rfl⟩
  · have hn := (frameState_framed (hI.input hb).1).2
    have := blockCount_pos s.LEN.toNat
    rw [stepsLeft_framing hp, stepsLeft_perblock (frameState_phase s) decode_loadw0, hn]
    show 131 + 131 * (blockCount s.LEN.toNat - 1 - 0) + 1 = 1 + 131 * blockCount s.LEN.toNat
    omega
  · rw [stepsLeft_perblock hp hd, stepsLeft_perblock hpt hj.decodes]
    exact hj.count
  · rw [stepsLeft_perblock hp hd]
    show 0 + 1 = 1 + 131 * (s.NBLK.toNat - 1 - s.blk.toNat)
    omega

/-! The computation. -/

/-- The last block's hash state is the hash of the message (44_sequencer_serialization.md R216). -/
theorem hashUpTo_lastBlock (hf : s.framed) (hlast : s.blk.toNat + 1 = s.NBLK.toNat) :
    Ref.hashUpTo s.message (s.blk.toNat + 1) = Ref.hash s.message := by
  rw [Ref.hash, Ref.blocks_eq, length_message, hlast, hf.2]

/-- Each micro-operation of an undisturbed computation stays on SHA-256 of the message. -/
theorem Invariant.uop_computes (hI : Invariant s) (hb : s.busy = true)
    (hd : decodeUop s.seq = .ok i) (hx : exec i s = .next t) (hM : s.computes M)
    (hu : s.msgDisturbed = false) : t.computes M := by
  have hmsg := (uop_keepsInput hd hx).message
  rcases hI.uop_moves hb hd hx with ⟨hp, rfl⟩ | ⟨hp, hpt, -, j, hj⟩ | ⟨hp, hf, rfl, hlast, rfl⟩
  · simp only [State.computes, hp] at hM
    obtain ⟨rfl, hH⟩ := hM
    exact ⟨hmsg, .loadw 0, decode_loadw0, hH, fun k hk => absurd hk (Nat.not_lt_zero _)⟩
  · simp only [State.computes, hp, hd, Except.ok.injEq, exists_eq_left'] at hM
    obtain ⟨rfl, hfol⟩ := hM
    simp only [State.computes, hpt]
    exact ⟨hmsg, j, hj.decodes, hj.follows hfol⟩
  · simp only [State.computes, hp, hd, Except.ok.injEq, exists_eq_left'] at hM
    obtain ⟨rfl, hH⟩ := hM
    have hset : settleHash s = s := by simp [settleHash, hu]
    show (settleHash s).H = Ref.hash s.message
    rw [hset, ← hashUpTo_lastBlock hf hlast]
    exact hH

/-! The engine alone. -/

theorem Invariant.exists_uop (hI : Invariant s) (hb : s.busy = true) :
    ∃ i t, decodeUop s.seq = .ok i ∧ exec i s = .next t := by
  obtain ⟨i, hd⟩ := hI.exists_decode hb
  obtain ⟨t, hx⟩ := hI.uop_answers hb hd
  exact ⟨i, t, hd, hx⟩

/-- A BUSY engine has a step left. -/
theorem Invariant.stepsLeft_pos (hI : Invariant s) (hb : s.busy = true) : 0 < s.stepsLeft := by
  obtain ⟨i, t, hd, hx⟩ := hI.exists_uop hb
  have := hI.uop_counts hb hd hx
  omega

/-- Left alone, an engine that is not IDLE runs its steps to DONE, and what each micro-operation of a
BUSY engine keeps still holds there (44_sequencer_serialization.md R213; 70_reset_and_hazards.md
R320). -/
theorem run_stepsLeft {P : State → Prop}
    (keep : ∀ {s t i}, Invariant s → s.busy = true → decodeUop s.seq = .ok i →
      exec i s = .next t → P s → P t)
    (hI : Invariant s) (hturns : s.turns = []) (hp : s.phase ≠ .idle) (hP : P s) :
    ∃ t, Host.Core.run core s.stepsLeft s = .next t ∧ t.phase = .done ∧ P t := by
  induction hn : s.stepsLeft generalizing s with
  | zero =>
    have hb : s.busy = false := by
      by_contra hb
      have := hI.stepsLeft_pos (by simpa using hb)
      omega
    exact ⟨s, rfl, ((busy_eq_false_iff s).1 hb).resolve_left hp, hP⟩
  | succ n ih =>
    have hb : s.busy = true := busy_of_stepsLeft_ne_zero (by omega)
    obtain ⟨i, t, hd, hx⟩ := hI.exists_uop hb
    have hstep : step s = .next t := by
      rw [step_eq_engineTurn hturns, engineTurn_of_decode hb hd, hx]
    have hpt : t.phase ≠ .idle := by
      rcases hI.uop_phase hb hd hx with ⟨h, -⟩ | h <;> simp [h]
    have hcount := hI.uop_counts hb hd hx
    rw [run_succ n hstep]
    exact ih (hI.uop_keeps hb hd hx) ((uop_keepsInput hd hx).turns.trans hturns) hpt
      (keep hI hb hd hx hP) (by omega)

/-! An accepted START. -/

/-- An accepted START gives a state with the invariant (45_host_interface.md R240). -/
theorem acceptStart_invariant (hI : Invariant s) (ha : s.accepted) : Invariant (acceptStart s) :=
  ⟨hI.memWf, hI.memInside, hI.size, .inr ⟨nofun, rfl⟩, fun _ => ha, fun _ => rfl, nofun⟩

theorem acceptStart_computes (s : State) : (acceptStart s).computes s.message := ⟨rfl, rfl⟩

theorem exec_start_accepted (g : BitVec 28) (hb : s.busy = false) (ha : s.accepted) :
    exec (.start g) s = .next (acceptStart s) := by
  have hidle : unlessBusy startIdle s = startIdle s := by simp [unlessBusy, hb]
  have hstart : startIdle s = acceptStart s := by
    obtain ⟨hlt, hin⟩ := ha
    rcases startIdle_cases s with ⟨h, -⟩ | ⟨-, h0, h, -⟩ | ⟨-, h⟩
    · omega
    · omega
    · exact h
  rw [exec, execStart, hidle, hstart]

theorem Invariant.setTurns (hI : Invariant s) (l : List Turn) : Invariant (setTurns l s) :=
  ⟨hI.memWf, hI.memInside, hI.size, hI.status, hI.input, hI.framing, hI.perblock⟩

theorem digestReg_of_done (hp : s.phase = .done) (n : BitVec 3) :
    s.digestReg n = s.H[n.toNat]'(n.isLt) := by
  simp [State.digestReg, State.isDone, hp]

/-- Settles O60: START gives a state that computes SHA-256 of the message, every engine step keeps it
so, and the count of steps ends in DONE. -/
theorem acceptedStartLeavesTheDigest : Obligations.AcceptedStartLeavesTheDigest := by
  intro s w g hI hb ha hturns hd
  have hstep : step s = .next (acceptStart (setTurns [] s)) := by
    rw [step_eq_takeTurn hturns]
    exact (hostTurn_of_decode hd).trans (exec_start_accepted g hb ha)
  obtain ⟨t, hrun, hp, hM, -⟩ := run_stepsLeft (s := acceptStart (setTurns [] s))
    (P := fun v => v.computes s.message ∧ v.msgDisturbed = false)
    (fun hI hb hd hx ⟨hM, hu⟩ =>
      ⟨hI.uop_computes hb hd hx hM hu, (uop_keepsInput hd hx).msgDisturbed.trans hu⟩)
    (acceptStart_invariant (hI.setTurns []) ha) rfl nofun ⟨acceptStart_computes _, rfl⟩
  have hH : t.H = Ref.hash s.message := by
    simpa only [State.computes, hp] using hM
  refine ⟨t, ?_, hp, hH, fun n => by rw [digestReg_of_done hp]; simp only [hH]⟩
  rw [Nat.add_comm 1 (1 + _), run_succ _ hstep]
  exact hrun

end Sys2Proof.Machine
end

section
/-! SUPPORT. A step by the agent that takes it, and what every step keeps (10_state.md R24, R26, R34,
R35; 60_exceptions.md R273). -/

namespace Sys2Proof.Machine

variable {s t : State}

/-! A step by its agent. -/

/-- The turn is the engine's, and `rest` are the turns after it: it is next in the list, or none is
left (44_sequencer_serialization.md R214). -/
def State.engineIsNext (s : State) (rest : List Turn) : Prop :=
  (s.turns = [] ∧ rest = []) ∨ s.turns = .engine :: rest

/-- Everything a step from `s` to `t` can be, by its agent, down to the transaction or micro-operation
it runs (00_scope.md R11). -/
inductive StepBy (s t : State) : Prop where
  | host (w : Htw) (rest : List Turn) (i : Instr) (turns : s.turns = .host w :: rest)
      (decodes : decodeHtw w = .ok i) (runs : exec i (setTurns rest s) = .next t)
  | poll (rest later : List Turn) (turns : s.turns = .poll :: rest)
      (again : later = if s.statusWord.getLsbD 0 then .engine :: .poll :: rest else rest)
      (eq : t = setTurns later (returnData s.statusWord s))
  | memWrite (addr : Dword) (b : Byte) (rest : List Turn) (turns : s.turns = .memWrite addr b :: rest)
      (inside : addr.toNat < s.msgSize) (eq : t = storeByte addr.toNat b (setTurns rest s))
  | uop (rest : List Turn) (i : Instr) (turns : s.engineIsNext rest) (busy : s.busy = true)
      (decodes : decodeUop s.seq = .ok i) (runs : exec i (setTurns rest s) = .next t)
  | wait (rest : List Turn) (turns : s.engineIsNext rest) (busy : s.busy = false)
      (eq : t = setTurns rest s)
  | rst (rest : List Turn) (turns : s.turns = .rst :: rest) (eq : t = resetEngine (setTurns rest s))

theorem stepBy_of_engineTurn {rest : List Turn} (hturns : s.engineIsNext rest)
    (h : engineTurn (setTurns rest s) = .next t) : StepBy s t := by
  rcases engineTurn_next h with ⟨hb, rfl⟩ | ⟨i, hb, hd, hx⟩
  · exact .wait rest hturns hb rfl
  · exact .uop rest i hturns hb hd hx

theorem stepBy_of_pollTurn {rest : List Turn} (hturns : s.turns = .poll :: rest)
    (h : pollTurn (setTurns rest s) = .next t) : StepBy s t := by
  have hstatus : (setTurns rest s).statusWord = s.statusWord := rfl
  rw [pollTurn_eq, hstatus] at h
  cases h
  refine .poll rest _ hturns rfl ?_
  split_ifs <;> rfl

theorem stepBy_of_step (h : step s = .next t) : StepBy s t := by
  rcases step_cases h with ⟨hturns, he⟩ | ⟨rest, ⟨w, hturns, hw⟩ | ⟨hturns, hp⟩ |
    ⟨addr, b, hturns, hin, ht⟩ | ⟨hturns, he⟩ | ⟨hturns, ht⟩⟩
  · have hsame : setTurns [] s = s := by rw [← hturns]; rfl
    exact stepBy_of_engineTurn (.inl ⟨hturns, rfl⟩) (hsame ▸ he)
  · obtain ⟨i, hd, hx⟩ := hostTurn_next hw
    exact .host w rest i hturns hd hx
  · exact stepBy_of_pollTurn hturns hp
  · exact .memWrite addr b rest hturns hin ht
  · exact stepBy_of_engineTurn (.inr hturns) he
  · exact .rst rest hturns ht

/-! The invariant, operation by operation. -/

/-- While BUSY = 0 the invariant speaks of message memory and of the status alone. -/
theorem Invariant.of_not_busy (hb : t.busy = false) (memWf : t.mem.wf = true)
    (memInside : ∀ c ∈ t.mem, c.1 < t.msgSize) (size : t.msgSize ≤ 2 ^ 64)
    (status : (t.phase = .idle ∧ t.errcode.toNat ≤ 2) ∨ (t.phase ≠ .idle ∧ t.errcode = 0)) :
    Invariant t where
  memWf := memWf
  memInside := memInside
  size := size
  status := status
  input h := by simp [hb] at h
  framing hp := by simp [State.busy, hp] at hb
  perblock hp := by simp [State.busy, hp] at hb

theorem Invariant.returnData (hI : Invariant s) (v : Word) : Invariant (returnData v s) :=
  ⟨hI.memWf, hI.memInside, hI.size, hI.status, hI.input, hI.framing, hI.perblock⟩

theorem Invariant.setSrc (hI : Invariant s) (hb : s.busy = false) (v : Dword) :
    Invariant (setSrc v s) :=
  .of_not_busy hb hI.memWf hI.memInside hI.size hI.status

theorem Invariant.setLen (hI : Invariant s) (hb : s.busy = false) (v : Dword) :
    Invariant (setLen v s) :=
  .of_not_busy hb hI.memWf hI.memInside hI.size hI.status

theorem Invariant.reject (hI : Invariant s) {code : BitVec 4} (hc : code.toNat ≤ 2) :
    Invariant (reject code s) :=
  .of_not_busy rfl hI.memWf hI.memInside hI.size (.inl ⟨rfl, hc⟩)

theorem Invariant.startIdle (hI : Invariant s) : Invariant (startIdle s) := by
  rcases startIdle_cases s with ⟨-, h⟩ | ⟨-, -, -, h⟩ | ⟨ha, h⟩ <;> rw [h]
  · exact hI.reject (by decide)
  · exact hI.reject (by decide)
  · exact acceptStart_invariant hI ha

theorem Invariant.storeByte (hI : Invariant s) {addr : Nat} (h : addr < s.msgSize) (b : Byte) :
    Invariant (storeByte addr b s) := by
  refine ⟨write_wf addr b hI.memWf, fun c hc => ?_, hI.size, hI.status, hI.input, hI.framing,
    hI.perblock⟩
  rcases mem_write hc with rfl | hc
  · exact h
  · exact hI.memInside c hc

theorem Invariant.resetEngine (hI : Invariant s) : Invariant (resetEngine s) :=
  .of_not_busy rfl hI.memWf hI.memInside hI.size (.inl ⟨rfl, by simp⟩)

/-- Every host transaction keeps the invariant. -/
theorem Invariant.host_keeps (hI : Invariant s) {w : Htw} {i : Instr} (hd : decodeHtw w = .ok i)
    (hx : exec i s = .next t) : Invariant t := by
  rcases host_cases hd hx with ⟨v, rfl⟩ | rfl | ⟨v, hb, rfl⟩ | ⟨v, hb, rfl⟩ | ⟨g, -, -, rfl⟩
  · exact hI.returnData v
  · exact hI
  · exact hI.setSrc hb v
  · exact hI.setLen hb v
  · exact hI.startIdle

/-- Settles O54, by the agent of the step: a transaction, a micro-operation, or one named operation. -/
theorem stepKeepsInv : Obligations.StepKeepsInv := by
  intro s t hI h
  cases stepBy_of_step h with
  | host w rest i _ hd hx => exact (hI.setTurns rest).host_keeps hd hx
  | poll rest later _ _ ht => exact ht ▸ (hI.returnData _).setTurns later
  | memWrite addr b rest _ hin ht => exact ht ▸ (hI.setTurns rest).storeByte hin b
  | uop rest i _ hb hd hx => exact (hI.setTurns rest).uop_keeps hb hd hx
  | wait rest _ _ ht => exact ht ▸ hI.setTurns rest
  | rst rest _ ht => exact ht ▸ (hI.setTurns rest).resetEngine

/-- Settles O53: memory lists nothing, MSG_SIZE is at the top of its range, and the phase is IDLE. -/
theorem resetHasInv : Obligations.ResetHasInv :=
  .of_not_busy rfl rfl nofun (by decide) (.inl ⟨rfl, by decide⟩)

/-! The engine's registers. -/

/-- Settles O46: no micro-operation changes the input registers. -/
theorem microOperationFrame : Obligations.MicroOperationFrame := by
  intro u i s t hd hx
  have hk := uop_keepsInput hd hx
  exact ⟨hk.errcode, hk.SRC, hk.LEN, hk.hRdata, hk.msgDisturbed⟩

/-- While BUSY a host transaction returns a value, or does nothing (70_reset_and_hazards.md R313). -/
theorem host_cases_busy {w : Htw} {i : Instr} (hb : s.busy = true) (hd : decodeHtw w = .ok i)
    (hx : exec i s = .next t) : (∃ v, t = returnData v s) ∨ t = s := by
  rcases host_cases hd hx with h | h | ⟨-, hnot, -⟩ | ⟨-, hnot, -⟩ | ⟨-, -, hnot, -⟩
  · exact .inl h
  · exact .inr h
  all_goals simp [hb] at hnot

/-- Settles O47: while BUSY only reset writes SRC or LEN. -/
theorem operandsStableWhileBusy : Obligations.OperandsStableWhileBusy := by
  intro s t hb h
  cases stepBy_of_step h with
  | host w rest i _ hd hx =>
    rcases host_cases_busy (s := setTurns rest s) hb hd hx with ⟨v, rfl⟩ | rfl
    · exact .inl ⟨rfl, rfl⟩
    · exact .inl ⟨rfl, rfl⟩
  | poll rest later _ _ ht => exact .inl (ht ▸ ⟨rfl, rfl⟩)
  | memWrite addr b rest _ _ ht => exact .inl (ht ▸ ⟨rfl, rfl⟩)
  | uop rest i _ _ hd hx =>
    have hk := uop_keepsInput hd hx
    exact .inl ⟨hk.SRC, hk.LEN⟩
  | wait rest _ _ ht => exact .inl (ht ▸ ⟨rfl, rfl⟩)
  | rst rest hturns _ => exact .inr ⟨rest, hturns⟩

/-- A host transaction that changes errcode is a START taken while BUSY = 0 (60_exceptions.md R273,
R274). -/
theorem start_of_errcode_ne {w : Htw} {i : Instr} (hd : decodeHtw w = .ok i)
    (hx : exec i s = .next t) (hne : t.errcode ≠ s.errcode) :
    (∃ g, i = .start g) ∧ s.busy = false := by
  rcases host_cases hd hx with ⟨v, rfl⟩ | rfl | ⟨v, -, rfl⟩ | ⟨v, -, rfl⟩ | ⟨g, hi, hb, -⟩
  case inr.inr.inr.inr => exact ⟨⟨g, hi⟩, hb⟩
  all_goals exact absurd rfl hne

/-- Settles O40: of the turns only a START and reset reach errcode. -/
theorem onlyStartAndResetSetErrcode : Obligations.OnlyStartAndResetSetErrcode := by
  intro s t h hne
  cases stepBy_of_step h with
  | host w rest i hturns hd hx =>
    obtain ⟨⟨g, rfl⟩, hb⟩ := start_of_errcode_ne hd hx hne
    exact .inl ⟨w, rest, g, hturns, hd, hb⟩
  | poll rest later _ _ ht => exact absurd (ht ▸ rfl) hne
  | memWrite addr b rest _ _ ht => exact absurd (ht ▸ rfl) hne
  | uop rest i _ _ hd hx => exact absurd (uop_keepsInput hd hx).errcode hne
  | wait rest _ _ ht => exact absurd (ht ▸ rfl) hne
  | rst rest hturns ht => exact .inr ⟨rest, hturns, ht ▸ rfl⟩

end Sys2Proof.Machine
end

section
/-! SUPPORT. What the host can observe: the values its reads return, and that its transactions see no
more of the engine than these (10_state.md R26, R27, R36, R39). -/

namespace Sys2Proof.Machine

variable {s s1 s2 : State} {i : Instr}

theorem unlessBusy_of_not_busy (f : State → State) (hb : s.busy = false) : unlessBusy f s = f s := by
  simp [unlessBusy, hb]

theorem unlessBusy_of_busy (f : State → State) (hb : s.busy = true) : unlessBusy f s = s := by
  simp [unlessBusy, hb]

theorem digestReg_of_not_done (hp : s.phase ≠ .done) (n : BitVec 3) : s.digestReg n = 0 := by
  simp [State.digestReg, State.isDone, hp]

theorem evt_congr (hp : s1.phase = s2.phase) (he : s1.errcode = s2.errcode) : s1.evt = s2.evt := by
  simp [State.evt, State.isDone, State.err, hp, he]

/-- Settles O36: the write stores the half, and the read takes the same half. -/
theorem operandReadsBack : Obligations.OperandReadsBack := by
  rintro s t u v wr rd hb (⟨rfl, rfl⟩ | ⟨rfl, rfl⟩ | ⟨rfl, rfl⟩ | ⟨rfl, rfl⟩) ht hu <;>
    cases ht <;> cases hu <;> rw [unlessBusy_of_not_busy _ hb]
  · exact loHalf_withLo s.SRC v
  · exact hiHalf_withHi s.SRC v
  · exact loHalf_withLo s.LEN v
  · exact hiHalf_withHi s.LEN v

/-- Settles O49: the phase is IDLE and errcode 0, which fix what the host reads. -/
theorem resetState : Obligations.ResetState :=
  ⟨rfl, rfl, rfl, rfl, rfl, rfl, digestReg_of_not_done nofun, rfl⟩

/-! Two states the host cannot tell apart. -/

/-- `s1` and `s2` agree on all that the host can observe (10_state.md R36). -/
structure SameToHost (s1 s2 : State) : Prop where
  phase : s1.phase = s2.phase
  errcode : s1.errcode = s2.errcode
  SRC : s1.SRC = s2.SRC
  LEN : s1.LEN = s2.LEN
  msgSize : s1.msgSize = s2.msgSize
  hRdata : s1.hRdata = s2.hRdata
  H : s1.phase = .done → s1.H = s2.H

theorem SameToHost.statusWord (h : SameToHost s1 s2) : s1.statusWord = s2.statusWord :=
  statusWord_congr h.phase h.errcode

theorem SameToHost.digestReg (h : SameToHost s1 s2) (n : BitVec 3) :
    s1.digestReg n = s2.digestReg n := by
  by_cases hp : s1.phase = .done
  · rw [digestReg_of_done hp, digestReg_of_done (h.phase ▸ hp)]
    simp only [h.H hp]
  · rw [digestReg_of_not_done hp, digestReg_of_not_done (h.phase ▸ hp)]

theorem SameToHost.startError (h : SameToHost s1 s2) : startError s1 = startError s2 := by
  simp only [Machine.startError, h.LEN, h.SRC, h.msgSize]

/-- An update of the state that keeps states alike which the host cannot tell apart. -/
def KeepsHidden (f : State → State) : Prop :=
  ∀ {s1 s2 : State}, SameToHost s1 s2 → SameToHost (f s1) (f s2)

theorem returnData_keepsHidden {g : State → Word}
    (hg : ∀ {s1 s2}, SameToHost s1 s2 → g s1 = g s2) : KeepsHidden fun s => returnData (g s) s :=
  fun h => { h with hRdata := hg h }

theorem setSrc_keepsHidden (g : Dword → Dword) : KeepsHidden fun s => setSrc (g s.SRC) s :=
  fun h => { h with SRC := congrArg g h.SRC }

theorem setLen_keepsHidden (g : Dword → Dword) : KeepsHidden fun s => setLen (g s.LEN) s :=
  fun h => { h with LEN := congrArg g h.LEN }

theorem reject_keepsHidden (code : BitVec 4) : KeepsHidden (reject code) :=
  fun h => { h with phase := rfl, errcode := rfl, H := nofun }

theorem acceptStart_keepsHidden : KeepsHidden acceptStart :=
  fun h => { h with phase := rfl, errcode := rfl, H := fun _ => rfl }

theorem startIdle_keepsHidden : KeepsHidden startIdle := by
  intro s1 s2 h
  unfold startIdle
  rw [h.startError]
  split
  · exact reject_keepsHidden _ h
  · exact acceptStart_keepsHidden h

theorem unlessBusy_keepsHidden {f : State → State → State} (hf : KeepsHidden fun s => f s s) :
    KeepsHidden fun s => unlessBusy (f s) s := by
  intro s1 s2 h
  show SameToHost (unlessBusy (f s1) s1) (unlessBusy (f s2) s2)
  have hbusy := busy_congr h.phase
  cases hb : s1.busy with
  | true => rwa [unlessBusy_of_busy _ hb, unlessBusy_of_busy _ (hbusy ▸ hb)]
  | false =>
    rw [unlessBusy_of_not_busy _ hb, unlessBusy_of_not_busy _ (hbusy ▸ hb)]
    exact hf h

/-- A transaction whose answer keeps states alike which the host cannot tell apart. -/
def AnswersHidden (i : Instr) : Prop :=
  ∃ f : State → State, KeepsHidden f ∧ ∀ s, exec i s = .next (f s)

theorem AnswersHidden.of_read {g : State → Word}
    (hg : ∀ {s1 s2}, SameToHost s1 s2 → g s1 = g s2)
    (hx : ∀ s, exec i s = .next (returnData (g s) s)) : AnswersHidden i :=
  ⟨_, returnData_keepsHidden hg, hx⟩

theorem AnswersHidden.of_ignored (hx : ∀ s, exec i s = .next s) : AnswersHidden i :=
  ⟨id, id, hx⟩

theorem AnswersHidden.of_write {f : State → State → State} (hf : KeepsHidden fun s => f s s)
    (hx : ∀ s, exec i s = .next (unlessBusy (f s) s)) : AnswersHidden i :=
  ⟨_, unlessBusy_keepsHidden hf, hx⟩

theorem AnswersHidden.of_setSrc (g : Dword → Dword)
    (hx : ∀ s, exec i s = .next (unlessBusy (setSrc (g s.SRC)) s)) : AnswersHidden i :=
  .of_write (setSrc_keepsHidden g) hx

theorem AnswersHidden.of_setLen (g : Dword → Dword)
    (hx : ∀ s, exec i s = .next (unlessBusy (setLen (g s.LEN)) s)) : AnswersHidden i :=
  .of_write (setLen_keepsHidden g) hx

/-- A read returns 0, STATUS, half an operand, or DIGESTn (45_host_interface.md R231 to R235). -/
theorem decodeRead_answersHidden (slot : BitVec 6) : AnswersHidden (decodeRead slot) := by
  have zero {i : Instr} (hx : ∀ s, exec i s = .next (returnData 0 s)) : AnswersHidden i :=
    .of_read (g := fun _ => 0) (fun _ => rfl) hx
  unfold decodeRead
  split_ifs
  · exact zero fun _ => rfl
  · exact .of_read SameToHost.statusWord fun _ => rfl
  · exact .of_read (fun h => congrArg loHalf h.SRC) fun _ => rfl
  · exact .of_read (fun h => congrArg hiHalf h.SRC) fun _ => rfl
  · exact .of_read (fun h => congrArg loHalf h.LEN) fun _ => rfl
  · exact .of_read (fun h => congrArg hiHalf h.LEN) fun _ => rfl
  · exact zero fun _ => rfl
  · exact .of_read (fun h => h.digestReg _) fun _ => rfl
  · exact zero fun _ => rfl
  · exact zero fun _ => rfl

/-- Of the commands only START has an effect (45_host_interface.md R240 to R243). -/
theorem decodeCommand_answersHidden (ign : BitVec 28) (cmd : BitVec 4) :
    AnswersHidden (decodeCommand ign cmd) := by
  unfold decodeCommand
  split_ifs
  · exact .of_ignored fun _ => rfl
  · exact .of_write (f := fun _ => startIdle) startIdle_keepsHidden fun _ => rfl
  all_goals exact .of_ignored fun _ => rfl

/-- Of the other writes only those of SRC and LEN have an effect (45_host_interface.md R236 to R239,
R244, R245). -/
theorem decodeWrite_answersHidden (slot : BitVec 6) (v : Word) :
    AnswersHidden (decodeWrite slot v) := by
  unfold decodeWrite
  split_ifs
  · exact decodeCommand_answersHidden _ _
  · exact .of_ignored fun _ => rfl
  · exact .of_setSrc (withLo · v) fun _ => rfl
  · exact .of_setSrc (withHi · v) fun _ => rfl
  · exact .of_setLen (withLo · v) fun _ => rfl
  · exact .of_setLen (withHi · v) fun _ => rfl
  all_goals exact .of_ignored fun _ => rfl

theorem decodeHtw_answersHidden {w : Htw} (hd : decodeHtw w = .ok i) : AnswersHidden i := by
  unfold decodeHtw at hd
  split_ifs at hd
  · cases hd
    exact decodeRead_answersHidden _
  · cases hd
    exact decodeWrite_answersHidden _ _

/-- Settles O48: each transaction reads only what the two states agree on. -/
theorem internalStateIsHidden : Obligations.InternalStateIsHidden := by
  intro w i s1 s2 t1 t2 hd hphase herr hsrc hlen hsize hrdata hH hx1 hx2
  obtain ⟨f, hf, hx⟩ := decodeHtw_answersHidden hd
  rw [hx] at hx1 hx2
  cases hx1
  cases hx2
  have h := hf ⟨hphase, herr, hsrc, hlen, hsize, hrdata, hH⟩
  exact ⟨h.hRdata, h.phase, h.errcode, h.SRC, h.LEN, h.msgSize, h.H, evt_congr h.phase h.errcode⟩

end Sys2Proof.Machine
end

section
/-! SUPPORT. Message memory: no instruction writes it, and LOADW reads no byte of it outside the message
(20_memory.md R62, R70). -/

namespace Sys2Proof.Machine

variable {s t : State} {i : Instr} {m : Memory} {x : BitVec 6}

/-! What LOADW and EXPAND answer, for every term and not only for those a word decodes to. -/

/-- When LOADW answers, and what (42_schedule.md R170). -/
theorem exec_loadw_eq_next_iff : exec (.loadw x) s = .next t ↔
    x < 16 ∧ ∃ v, padWord s (s.wordPos x) = .ok v ∧ t = setSeq (afterLoadw x) (setSched x v s) := by
  constructor
  · intro h
    simp only [exec, execLoadw] at h
    split at h
    · split at h <;> cases h
      exact ⟨by assumption, _, by assumption, rfl⟩
    · cases h
  · rintro ⟨hx, v, hv, rfl⟩
    simp only [exec, execLoadw, if_pos hx, hv]

/-- EXPAND, in both rows of the table, answers its own next state or none (42_schedule.md R171). -/
theorem eq_expandState_of_next (hi : i = .expand16to31 x ∨ i = .expand32to63 x)
    (h : exec i s = .next t) : t = expandState x s := by
  rcases hi with rfl | rfl
  all_goals
    simp only [exec, execExpand16to31, execExpand32to63] at h
    split at h <;> cases h
    rfl

/-! The bytes LOADW reads. -/

theorem memRead_withMem {addr : Nat} (h : s.mem.read addr = m.read addr) :
    memRead { s with mem := m } addr = memRead s addr := by
  simp only [memRead, h]

/-- A padded byte is a message byte, or does not depend on memory (41_padding.md R151). -/
theorem padByte_withMem (hm : ∀ a, s.inMessage a = true → s.mem.read a = m.read a) (j : Nat) :
    padByte { s with mem := m } j = padByte s j := by
  unfold padByte
  refine ite_congr rfl (fun hj => ?_) fun _ => rfl
  have inside : s.inMessage (s.SRC.toNat + j) = true := by simp [State.inMessage, hj]
  exact memRead_withMem (hm _ inside)

theorem padWord_withMem (hm : ∀ a, s.inMessage a = true → s.mem.read a = m.read a) (j : Nat) :
    padWord { s with mem := m } j = padWord s j := by
  simp only [padWord, padByte_withMem hm]

/-- Settles O20: the padded word is the same, and LOADW takes no more of memory than this word. -/
theorem loadwReadsOnlyTheMessage : Obligations.LoadwReadsOnlyTheMessage := by
  intro s u m x hm hx
  obtain ⟨hlt, v, hv, rfl⟩ := exec_loadw_eq_next_iff.1 hx
  exact exec_loadw_eq_next_iff.2 ⟨hlt, v, (padWord_withMem hm _).trans hv, rfl⟩

/-! What no instruction changes. -/

/-- `t` has the message memory of `s`, its size, and the turns still to come. -/
structure KeepsMemory (s t : State) : Prop where
  mem : t.mem = s.mem
  msgSize : t.msgSize = s.msgSize
  turns : t.turns = s.turns

theorem unlessBusy_keepsMemory {f : State → State} (hf : KeepsMemory s (f s)) :
    KeepsMemory s (unlessBusy f s) := by
  rcases unlessBusy_cases f s with ⟨-, h⟩ | ⟨-, h⟩ <;> rw [h]
  · exact ⟨rfl, rfl, rfl⟩
  · exact hf

theorem startIdle_keepsMemory (s : State) : KeepsMemory s (startIdle s) := by
  rcases startIdle_cases s with ⟨-, h⟩ | ⟨-, -, -, h⟩ | ⟨-, h⟩ <;> rw [h] <;> exact ⟨rfl, rfl, rfl⟩

/-- Every instruction term that answers keeps message memory, also one that no word decodes to. -/
theorem exec_keepsMemory (h : exec i s = .next t) : KeepsMemory s t := by
  cases i with
  | start g =>
    cases h
    exact unlessBusy_keepsMemory (startIdle_keepsMemory s)
  | wrSrcLo v | wrSrcHi v | wrLenLo v | wrLenHi v =>
    cases h
    exact unlessBusy_keepsMemory ⟨rfl, rfl, rfl⟩
  | invalidRsv we slot v => cases h
  | loadw x =>
    obtain ⟨-, v, -, rfl⟩ := exec_loadw_eq_next_iff.1 h
    exact ⟨rfl, rfl, rfl⟩
  | expand16to31 x =>
    rw [eq_expandState_of_next (.inl rfl) h]
    exact ⟨rfl, rfl, rfl⟩
  | expand32to63 x =>
    rw [eq_expandState_of_next (.inr rfl) h]
    exact ⟨rfl, rfl, rfl⟩
  | finish =>
    cases h
    exact ⟨settleHash_mem s, settleHash_msgSize s, settleHash_turns s⟩
  | _ =>
    cases h
    exact ⟨rfl, rfl, rfl⟩

/-- Settles O44: every byte reads as before because the memory is the same. -/
theorem memoryFrame : Obligations.MemoryFrame := by
  intro i s t h
  obtain ⟨hmem, hsize, hturns⟩ := exec_keepsMemory h
  exact ⟨fun a => congrArg (Memory.read · a) hmem, hmem, hsize, hturns⟩

end Sys2Proof.Machine
end

section
/-! SUPPORT. What the decoder reads from each field, and the encoder as its inverse on both levels
(30_encoding.md R91 to R94, R100 to R102). -/

namespace Sys2Proof

variable {slot : BitVec 6} {v : Word} {ign : BitVec 28} {cmd : BitVec 4} {t : BitVec 6} {w : Htw}
  {u : Uop} {i : Instr}

/-! The decoder's tables, row by row. The rows of one slot or one command hold by computation. -/

/-- The rows of WIDX, those of several slots first (30_encoding.md R92). -/
theorem slot_rows (slot : BitVec 6) : (6 ≤ slot ∧ slot < 8) ∨ (8 ≤ slot ∧ slot < 16) ∨
    (16 ≤ slot ∧ slot < 32) ∨ 32 ≤ slot ∨ slot = 0 ∨ slot = 1 ∨ slot = 2 ∨ slot = 3 ∨ slot = 4 ∨
    slot = 5 := by
  bv_omega

/-- The rows of CMD (30_encoding.md R94). -/
theorem cmd_rows (cmd : BitVec 4) :
    cmd = 0 ∨ cmd = 1 ∨ (2 ≤ cmd ∧ cmd < 4) ∨ (4 ≤ cmd ∧ cmd < 8) ∨ 8 ≤ cmd := by
  bv_omega

/-- The values of CLASS, those whose index has a range and the reserved ones from 9 on first
(30_encoding.md R101, R102). -/
theorem class_rows (c : BitVec 4) : c = 2 ∨ c = 3 ∨ 9 ≤ c ∨ c = 0 ∨ c = 1 ∨ c = 4 ∨ c = 5 ∨
    c = 6 ∨ c = 7 ∨ c = 8 := by
  bv_omega

theorem decodeRead_of_six_le (h : 6 ≤ slot) : decodeRead slot =
    if slot < 8 then .rdReserved6to7 slot
    else if slot < 16 then .rdDigest (slotDigest slot)
    else if slot < 32 then .rdReserved16to31 slot
    else .rdReserved32to63 slot := by
  rw [decodeRead, if_neg (by bv_omega), if_neg (by bv_omega), if_neg (by bv_omega),
    if_neg (by bv_omega), if_neg (by bv_omega), if_neg (by bv_omega)]

theorem decodeRead_reserved6to7 (h : 6 ≤ slot) (h' : slot < 8) :
    decodeRead slot = .rdReserved6to7 slot := by
  rw [decodeRead_of_six_le h, if_pos h']

theorem decodeRead_digest (h : 8 ≤ slot) (h' : slot < 16) :
    decodeRead slot = .rdDigest (slotDigest slot) := by
  rw [decodeRead_of_six_le (by bv_omega), if_neg (by bv_omega), if_pos h']

theorem decodeRead_reserved16to31 (h : 16 ≤ slot) (h' : slot < 32) :
    decodeRead slot = .rdReserved16to31 slot := by
  rw [decodeRead_of_six_le (by bv_omega), if_neg (by bv_omega), if_neg (by bv_omega), if_pos h']

theorem decodeRead_reserved32to63 (h : 32 ≤ slot) : decodeRead slot = .rdReserved32to63 slot := by
  rw [decodeRead_of_six_le (by bv_omega), if_neg (by bv_omega), if_neg (by bv_omega),
    if_neg (by bv_omega)]

theorem decodeWrite_of_six_le (h : 6 ≤ slot) : decodeWrite slot v =
    if slot < 8 then .wrReserved6to7 slot v
    else if slot < 16 then .wrDigest (slotDigest slot) v
    else if slot < 32 then .wrReserved16to31 slot v
    else .wrReserved32to63 slot v := by
  rw [decodeWrite, if_neg (by bv_omega), if_neg (by bv_omega), if_neg (by bv_omega),
    if_neg (by bv_omega), if_neg (by bv_omega), if_neg (by bv_omega)]

theorem decodeWrite_reserved6to7 (h : 6 ≤ slot) (h' : slot < 8) :
    decodeWrite slot v = .wrReserved6to7 slot v := by
  rw [decodeWrite_of_six_le h, if_pos h']

theorem decodeWrite_digest (h : 8 ≤ slot) (h' : slot < 16) :
    decodeWrite slot v = .wrDigest (slotDigest slot) v := by
  rw [decodeWrite_of_six_le (by bv_omega), if_neg (by bv_omega), if_pos h']

theorem decodeWrite_reserved16to31 (h : 16 ≤ slot) (h' : slot < 32) :
    decodeWrite slot v = .wrReserved16to31 slot v := by
  rw [decodeWrite_of_six_le (by bv_omega), if_neg (by bv_omega), if_neg (by bv_omega), if_pos h']

theorem decodeWrite_reserved32to63 (h : 32 ≤ slot) :
    decodeWrite slot v = .wrReserved32to63 slot v := by
  rw [decodeWrite_of_six_le (by bv_omega), if_neg (by bv_omega), if_neg (by bv_omega),
    if_neg (by bv_omega)]

theorem decodeCommand_reserved2to3 (h : 2 ≤ cmd) (h' : cmd < 4) :
    decodeCommand ign cmd = .wrCtrlReserved2to3 ign cmd := by
  rw [decodeCommand, if_neg (by bv_omega), if_neg (by bv_omega), if_pos h']

theorem decodeCommand_reserved4to7 (h : 4 ≤ cmd) (h' : cmd < 8) :
    decodeCommand ign cmd = .wrCtrlReserved4to7 ign cmd := by
  rw [decodeCommand, if_neg (by bv_omega), if_neg (by bv_omega), if_neg (by bv_omega), if_pos h']

theorem decodeCommand_reserved8toF (h : 8 ≤ cmd) :
    decodeCommand ign cmd = .wrCtrlReserved8toF ign cmd := by
  rw [decodeCommand, if_neg (by bv_omega), if_neg (by bv_omega), if_neg (by bv_omega),
    if_neg (by bv_omega)]

theorem decodeClass_loadw (h : t < 16) : decodeClass 2 t = .ok (.loadw t) := if_pos h

theorem decodeClass_expand16to31 (h : 16 ≤ t) (h' : t < 32) :
    decodeClass 3 t = .ok (.expand16to31 t) :=
  (if_neg (BitVec.not_lt.2 h)).trans (if_pos h')

theorem decodeClass_expand32to63 (h : 32 ≤ t) : decodeClass 3 t = .ok (.expand32to63 t) :=
  have h16 : ¬ t < 16 := by bv_omega
  (if_neg h16).trans (if_neg (BitVec.not_lt.2 h))

theorem decodeClass_reserved {c : BitVec 4} (h : 9 ≤ c) :
    decodeClass c t = .error .reservedUop := by
  rw [decodeClass, if_neg (by bv_omega), if_neg (by bv_omega), if_neg (by bv_omega),
    if_neg (by bv_omega), if_neg (by bv_omega), if_neg (by bv_omega), if_neg (by bv_omega),
    if_neg (by bv_omega)]

/-! DIGESTn stands at slot 8 + n (10_state.md R22). -/

theorem slotDigest_digestSlot : ∀ n : BitVec 3, slotDigest (digestSlot n) = n := by decide

theorem digestSlot_slotDigest : ∀ slot : BitVec 6, 8 ≤ slot → slot < 16 →
    digestSlot (slotDigest slot) = slot := by decide

theorem digestSlot_range : ∀ n : BitVec 3, 8 ≤ digestSlot n ∧ digestSlot n < 16 := by decide

theorem decodeRead_digestSlot (n : BitVec 3) : decodeRead (digestSlot n) = .rdDigest n := by
  obtain ⟨hlo, hhi⟩ := digestSlot_range n
  rw [decodeRead_digest hlo hhi, slotDigest_digestSlot]

theorem decodeWrite_digestSlot (n : BitVec 3) : decodeWrite (digestSlot n) v = .wrDigest n v := by
  obtain ⟨hlo, hhi⟩ := digestSlot_range n
  rw [decodeWrite_digest hlo hhi, slotDigest_digestSlot]

/-! From an instruction to its word and back (30_encoding.md R91, R93, R101). -/

theorem decode_readWord_of (h : decodeRead slot = i) : decode (readWord slot) = .ok i :=
  h ▸ decode_readWord slot

theorem decode_writeWord_of (h : decodeWrite slot v = i) : decode (writeWord slot v) = .ok i :=
  h ▸ decode_writeWord slot v

theorem decode_commandWord_of (h : decodeCommand ign cmd = i) :
    decode (commandWord ign cmd) = .ok i :=
  h ▸ decode_commandWord ign cmd

theorem decode_uopWord_of {c : BitVec 4} (h : decodeClass c t = .ok i) :
    decode (.uop (uopWord c t)) = .ok i :=
  (decodeUop_uopWord c t).trans h

theorem slot_6to7_iff : (slot == 6 || slot == 7) = true ↔ 6 ≤ slot ∧ slot < 8 := by
  rw [Bool.or_eq_true, beq_iff_eq, beq_iff_eq]
  bv_omega

theorem cmd_2to3_iff : (cmd == 2 || cmd == 3) = true ↔ 2 ≤ cmd ∧ cmd < 4 := by
  rw [Bool.or_eq_true, beq_iff_eq, beq_iff_eq]
  bv_omega

theorem range_iff {n : Nat} {lo hi x : BitVec n} :
    (decide (lo ≤ x) && decide (x < hi)) = true ↔ lo ≤ x ∧ x < hi := by
  rw [Bool.and_eq_true, decide_eq_true_iff, decide_eq_true_iff]

/-- Settles O2, by the row of the instruction: its word has the row's fields, and the decoder reads
them in the row's range. -/
theorem encodeThenDecode : Obligations.EncodeThenDecode := by
  intro i hwf
  cases i with
  | rdCtrl | rdStatus | rdSrcLo | rdSrcHi | rdLenLo | rdLenHi => exact decode_readWord_of rfl
  | rdReserved6to7 slot =>
    obtain ⟨hlo, hhi⟩ := slot_6to7_iff.1 hwf
    exact decode_readWord_of (decodeRead_reserved6to7 hlo hhi)
  | rdDigest n => exact decode_readWord_of (decodeRead_digestSlot n)
  | rdReserved16to31 slot =>
    obtain ⟨hlo, hhi⟩ := range_iff.1 hwf
    exact decode_readWord_of (decodeRead_reserved16to31 hlo hhi)
  | rdReserved32to63 slot =>
    exact decode_readWord_of (decodeRead_reserved32to63 (of_decide_eq_true hwf))
  | nop ign | start ign => exact decode_commandWord_of rfl
  | wrCtrlReserved2to3 ign cmd =>
    obtain ⟨hlo, hhi⟩ := cmd_2to3_iff.1 hwf
    exact decode_commandWord_of (decodeCommand_reserved2to3 hlo hhi)
  | wrCtrlReserved4to7 ign cmd =>
    obtain ⟨hlo, hhi⟩ := range_iff.1 hwf
    exact decode_commandWord_of (decodeCommand_reserved4to7 hlo hhi)
  | wrCtrlReserved8toF ign cmd =>
    exact decode_commandWord_of (decodeCommand_reserved8toF (of_decide_eq_true hwf))
  | wrStatus v | wrSrcLo v | wrSrcHi v | wrLenLo v | wrLenHi v => exact decode_writeWord_of rfl
  | wrReserved6to7 slot v =>
    obtain ⟨hlo, hhi⟩ := slot_6to7_iff.1 hwf
    exact decode_writeWord_of (decodeWrite_reserved6to7 hlo hhi)
  | wrDigest n v => exact decode_writeWord_of (decodeWrite_digestSlot n)
  | wrReserved16to31 slot v =>
    obtain ⟨hlo, hhi⟩ := range_iff.1 hwf
    exact decode_writeWord_of (decodeWrite_reserved16to31 hlo hhi)
  | wrReserved32to63 slot v =>
    exact decode_writeWord_of (decodeWrite_reserved32to63 (of_decide_eq_true hwf))
  | invalidRsv we slot v => exact absurd hwf nofun
  | frame | initwv | round t | feedback | nextblk | finish => exact decode_uopWord_of rfl
  | loadw t => exact decode_uopWord_of (decodeClass_loadw (of_decide_eq_true hwf))
  | expand16to31 t =>
    obtain ⟨hlo, hhi⟩ := range_iff.1 hwf
    exact decode_uopWord_of (decodeClass_expand16to31 hlo hhi)
  | expand32to63 t =>
    exact decode_uopWord_of (decodeClass_expand32to63 (of_decide_eq_true hwf))

/-! The fields of a word as numbers, and the word from its fields. -/

theorem extract_toNat {n : Nat} (x : BitVec n) (start len : Nat) :
    (x.extractLsb' start len).toNat = x.toNat / 2 ^ start % 2 ^ len := by
  rw [BitVec.extractLsb'_toNat, Nat.shiftRight_eq_div_pow]

theorem extract_zero_toNat {n : Nat} (x : BitVec n) (len : Nat) :
    (x.extractLsb' 0 len).toNat = x.toNat % 2 ^ len := by
  rw [extract_toNat, pow_zero, Nat.div_one]

/-- The topmost field is the quotient alone. -/
theorem extract_top_toNat {n : Nat} (x : BitVec n) {start len : Nat} (h : n = start + len) :
    (x.extractLsb' start len).toNat = x.toNat / 2 ^ start := by
  rw [extract_toNat, Nat.mod_eq_of_lt]
  exact Nat.div_lt_of_lt_mul (by rw [← pow_add, ← h]; exact x.isLt)

theorem htwWe_toNat (w : Htw) : (htwWe w).toNat = w.toNat / 2 ^ 39 := extract_top_toNat w rfl

theorem htwRsv_toNat (w : Htw) : (htwRsv w).toNat = w.toNat / 2 ^ 38 % 2 := extract_toNat w 38 1

theorem htwSlot_toNat (w : Htw) : (htwSlot w).toNat = w.toNat / 2 ^ 32 % 64 := extract_toNat w 32 6

theorem htwData_toNat (w : Htw) : (htwData w).toNat = w.toNat % 2 ^ 32 := extract_zero_toNat w 32

theorem ctrlCmd_toNat (v : Word) : (ctrlCmd v).toNat = v.toNat % 16 := extract_zero_toNat v 4

theorem ctrlIgn_toNat (v : Word) : (ctrlIgn v).toNat = v.toNat / 16 := extract_top_toNat v rfl

theorem uopClass_toNat (u : Uop) : (uopClass u).toNat = u.toNat / 256 := extract_top_toNat u rfl

theorem uopZ2_toNat (u : Uop) : (uopZ2 u).toNat = u.toNat / 64 % 4 := extract_toNat u 6 2

theorem uopT_toNat (u : Uop) : (uopT u).toNat = u.toNat % 64 := extract_zero_toNat u 6

/-- An HTW is its four fields side by side (30_encoding.md R91). -/
theorem htw_toNat (w : Htw) : w.toNat = (htwWe w).toNat * 2 ^ 39 + (htwRsv w).toNat * 2 ^ 38 +
    (htwSlot w).toNat * 2 ^ 32 + (htwData w).toNat := by
  rw [htwWe_toNat, htwRsv_toNat, htwSlot_toNat, htwData_toNat]
  omega

theorem htwWord_toNat (we rsv : BitVec 1) (slot : BitVec 6) (v : Word) :
    (htwWord we rsv slot v).toNat =
      we.toNat * 2 ^ 39 + rsv.toNat * 2 ^ 38 + slot.toNat * 2 ^ 32 + v.toNat := by
  rw [htw_toNat, htwWe_word, htwRsv_word, htwSlot_word, htwData_word]

theorem htwWord_eq_ofNat (we rsv : BitVec 1) (slot : BitVec 6) (v : Word) :
    htwWord we rsv slot v = BitVec.ofNat 40
      (we.toNat * 2 ^ 39 + rsv.toNat * 2 ^ 38 + slot.toNat * 2 ^ 32 + v.toNat) := by
  rw [← htwWord_toNat, BitVec.ofNat_toNat, BitVec.setWidth_eq]

theorem htwWord_fields (w : Htw) : htwWord (htwWe w) (htwRsv w) (htwSlot w) (htwData w) = w :=
  BitVec.eq_of_toNat_eq (by rw [htwWord_toNat, ← htw_toNat])

/-- The data of a CTRL write is IGN and CMD side by side (30_encoding.md R93). -/
theorem ctrl_fields (v : Word) : (ctrlIgn v ++ ctrlCmd v : Word) = v := by
  apply BitVec.eq_of_toNat_eq
  have h := BitVec.toNat_append (ctrlIgn v) (ctrlCmd v)
  rw [← Nat.shiftLeft_add_eq_or_of_lt (ctrlCmd v).isLt, Nat.shiftLeft_eq, ctrlIgn_toNat,
    ctrlCmd_toNat] at h
  omega

/-! From a word to its instruction and back. -/

/-- `i` is well formed, and `c` is its word. -/
def IsWordOf (c : Code) (i : Instr) : Prop := i.WellFormed ∧ encode i = c

theorem readWord_isWordOf (slot : BitVec 6) : IsWordOf (readWord slot) (decodeRead slot) := by
  rcases slot_rows slot with ⟨hlo, hhi⟩ | ⟨hlo, hhi⟩ | ⟨hlo, hhi⟩ | hlo | rfl | rfl | rfl | rfl |
    rfl | rfl
  · rw [decodeRead_reserved6to7 hlo hhi]
    exact ⟨slot_6to7_iff.2 ⟨hlo, hhi⟩, rfl⟩
  · rw [decodeRead_digest hlo hhi]
    exact ⟨rfl, congrArg readWord (digestSlot_slotDigest slot hlo hhi)⟩
  · rw [decodeRead_reserved16to31 hlo hhi]
    exact ⟨range_iff.2 ⟨hlo, hhi⟩, rfl⟩
  · rw [decodeRead_reserved32to63 hlo]
    exact ⟨decide_eq_true hlo, rfl⟩
  all_goals exact ⟨rfl, rfl⟩

theorem commandWord_isWordOf (ign : BitVec 28) (cmd : BitVec 4) :
    IsWordOf (commandWord ign cmd) (decodeCommand ign cmd) := by
  rcases cmd_rows cmd with rfl | rfl | ⟨hlo, hhi⟩ | ⟨hlo, hhi⟩ | hlo
  · exact ⟨rfl, rfl⟩
  · exact ⟨rfl, rfl⟩
  · rw [decodeCommand_reserved2to3 hlo hhi]
    exact ⟨cmd_2to3_iff.2 ⟨hlo, hhi⟩, rfl⟩
  · rw [decodeCommand_reserved4to7 hlo hhi]
    exact ⟨range_iff.2 ⟨hlo, hhi⟩, rfl⟩
  · rw [decodeCommand_reserved8toF hlo]
    exact ⟨decide_eq_true hlo, rfl⟩

theorem writeWord_isWordOf (slot : BitVec 6) (v : Word) :
    IsWordOf (writeWord slot v) (decodeWrite slot v) := by
  rcases slot_rows slot with ⟨hlo, hhi⟩ | ⟨hlo, hhi⟩ | ⟨hlo, hhi⟩ | hlo | rfl | rfl | rfl | rfl |
    rfl | rfl
  · rw [decodeWrite_reserved6to7 hlo hhi]
    exact ⟨slot_6to7_iff.2 ⟨hlo, hhi⟩, rfl⟩
  · rw [decodeWrite_digest hlo hhi]
    exact ⟨rfl, congrArg (writeWord · v) (digestSlot_slotDigest slot hlo hhi)⟩
  · rw [decodeWrite_reserved16to31 hlo hhi]
    exact ⟨range_iff.2 ⟨hlo, hhi⟩, rfl⟩
  · rw [decodeWrite_reserved32to63 hlo]
    exact ⟨decide_eq_true hlo, rfl⟩
  · have h := commandWord_isWordOf (ctrlIgn v) (ctrlCmd v)
    rwa [commandWord, ctrl_fields] at h
  all_goals exact ⟨rfl, rfl⟩

/-- A micro-operation word has no ignored bit (30_encoding.md R100). -/
theorem uop_isWordOf (h : decodeUop u = .ok i) : IsWordOf (.uop u) i := by
  rcases decodeUop_ok h with ⟨rfl, rfl⟩ | ⟨t, ht, rfl, rfl⟩ | ⟨t, hlo, hhi, rfl, rfl⟩ |
    ⟨t, ht, rfl, rfl⟩ | ⟨rfl, rfl⟩ | ⟨t, rfl, rfl⟩ | ⟨rfl, rfl⟩ | ⟨rfl, rfl⟩ | ⟨rfl, rfl⟩
  case inr.inl => exact ⟨decide_eq_true ht, rfl⟩
  case inr.inr.inl => exact ⟨range_iff.2 ⟨hlo, hhi⟩, rfl⟩
  case inr.inr.inr.inl => exact ⟨decide_eq_true ht, rfl⟩
  all_goals exact ⟨rfl, rfl⟩

theorem canonicalCode_read (hrsv : htwRsv w = 0) (hwe : htwWe w = 0) :
    canonicalCode (.htw w) = readWord (htwSlot w) := by
  rw [canonicalCode, if_pos hwe, hrsv, readWord]

theorem canonicalCode_write (hrsv : htwRsv w = 0) (hwe : htwWe w = 1) :
    canonicalCode (.htw w) = writeWord (htwSlot w) (htwData w) := by
  have hne : htwWe w ≠ 0 := hwe ▸ by decide
  rw [canonicalCode, if_neg hne, writeWord, ← hrsv, ← hwe, htwWord_fields]

/-- What a host transaction word decodes to, by RSV and WE (30_encoding.md R92). -/
theorem decodeHtw_ok (h : decodeHtw w = .ok i) : htwRsv w = 0 ∧
    (htwWe w = 0 ∧ i = decodeRead (htwSlot w) ∨
      htwWe w = 1 ∧ i = decodeWrite (htwSlot w) (htwData w)) := by
  unfold decodeHtw at h
  split_ifs at h with hrsv hwe <;> cases h
  · exact ⟨by bv_omega, .inl ⟨hwe, rfl⟩⟩
  · exact ⟨by bv_omega, .inr ⟨by bv_omega, rfl⟩⟩

/-- Settles O3: a micro-operation word carries only operands, and a transaction word is its fields
side by side, without the DATA of a read. -/
theorem decodeThenEncode : Obligations.DecodeThenEncode := by
  intro c i h
  cases c with
  | uop u => exact uop_isWordOf h
  | htw w =>
    obtain ⟨hrsv, ⟨hwe, rfl⟩ | ⟨hwe, rfl⟩⟩ := decodeHtw_ok h
    · exact canonicalCode_read hrsv hwe ▸ readWord_isWordOf _
    · exact canonicalCode_write hrsv hwe ▸ writeWord_isWordOf _ _

/-! The classes of transaction words. -/

theorem extract_bit {n : Nat} (x : BitVec n) (k : Nat) :
    x.extractLsb' k 1 = BitVec.ofBool (x.getLsbD k) := by
  ext j hj
  simp [show j = 0 by omega]

theorem decodeHtw_read (hrsv : w.getLsbD 38 = false) (hwe : w.getLsbD 39 = false) :
    decodeHtw w = .ok (decodeRead (htwSlot w)) := by
  rw [decodeHtw, htwRsv, htwWe, extract_bit, extract_bit, hrsv, hwe]
  rfl

theorem decodeHtw_write (hrsv : w.getLsbD 38 = false) (hwe : w.getLsbD 39 = true) :
    decodeHtw w = .ok (decodeWrite (htwSlot w) (htwData w)) := by
  rw [decodeHtw, htwRsv, htwWe, extract_bit, extract_bit, hrsv, hwe]
  rfl

theorem ofNat_slotDigest : ∀ slot : BitVec 6, 8 ≤ slot → slot < 16 →
    BitVec.ofNat 3 (slot.toNat - 8) = slotDigest slot := by decide

/-- A field of a known value selects the row of that value. -/
theorem ok_of_toNat {n : Nat} (f : BitVec n → Instr) {x : BitVec n} (k : BitVec n)
    (h : x.toNat = k.toNat) : (.ok (f x) : Except Reject Instr) = .ok (f k) := by
  rw [BitVec.eq_of_toNat_eq h]

/-- Settles O4: the fields are quotients of the word, and each class is one row of the decoder's
tables. -/
theorem htwClasses : Obligations.HtwClasses := by
  intro w x v hx hv
  rw [← htwSlot_toNat] at hx
  rw [← htwData_toNat] at hv
  subst hx hv
  refine ⟨(decodeHtw_error_iff w).2, fun hrsv hwe => ?_, fun hrsv hwe => ?_⟩
  · rw [decodeHtw_read hrsv hwe]
    generalize htwSlot w = slot
    simp only [BitVec.ofNat_toNat, BitVec.setWidth_eq]
    refine ⟨ok_of_toNat decodeRead 0, ok_of_toNat decodeRead 1, ok_of_toNat decodeRead 2,
      ok_of_toNat decodeRead 3, ok_of_toNat decodeRead 4, ok_of_toNat decodeRead 5,
      fun hlo hhi => ?_, fun hlo hhi => ?_, fun hlo hhi => ?_, fun hlo => ?_⟩
    · rw [decodeRead_reserved6to7 hlo (Nat.lt_succ_of_le hhi)]
    · rw [decodeRead_digest hlo (Nat.lt_succ_of_le hhi),
        ofNat_slotDigest slot hlo (Nat.lt_succ_of_le hhi)]
    · rw [decodeRead_reserved16to31 hlo (Nat.lt_succ_of_le hhi)]
    · rw [decodeRead_reserved32to63 hlo]
  · rw [decodeHtw_write hrsv hwe]
    generalize htwSlot w = slot, htwData w = v
    simp only [← ctrlCmd_toNat, ← ctrlIgn_toNat, BitVec.ofNat_toNat, BitVec.setWidth_eq]
    refine ⟨fun h => ?_, ok_of_toNat (decodeWrite · v) 1, ok_of_toNat (decodeWrite · v) 2,
      ok_of_toNat (decodeWrite · v) 3, ok_of_toNat (decodeWrite · v) 4,
      ok_of_toNat (decodeWrite · v) 5,
      fun hlo hhi => ?_, fun hlo hhi => ?_, fun hlo hhi => ?_, fun hlo => ?_⟩
    · have hcommand : decodeWrite slot v = decodeCommand (ctrlIgn v) (ctrlCmd v) :=
        if_pos (BitVec.eq_of_toNat_eq h)
      rw [hcommand]
      refine ⟨ok_of_toNat (decodeCommand _) 0, ok_of_toNat (decodeCommand _) 1,
        fun hlo hhi => ?_, fun hlo hhi => ?_, fun hlo => ?_⟩
      · rw [decodeCommand_reserved2to3 hlo (Nat.lt_succ_of_le hhi)]
      · rw [decodeCommand_reserved4to7 hlo (Nat.lt_succ_of_le hhi)]
      · rw [decodeCommand_reserved8toF hlo]
    · rw [decodeWrite_reserved6to7 hlo (Nat.lt_succ_of_le hhi)]
    · rw [decodeWrite_digest hlo (Nat.lt_succ_of_le hhi),
        ofNat_slotDigest slot hlo (Nat.lt_succ_of_le hhi)]
    · rw [decodeWrite_reserved16to31 hlo (Nat.lt_succ_of_le hhi)]
    · rw [decodeWrite_reserved32to63 hlo]

/-! The reserved micro-operation words. -/

theorem decodeBareUop_error_iff : decodeBareUop t i = .error .reservedUop ↔ t.toNat ≠ 0 := by
  unfold decodeBareUop
  split_ifs with h
  · exact iff_of_false nofun (not_not.2 (h ▸ rfl))
  · exact iff_of_true rfl fun h' => h (BitVec.eq_of_toNat_eq h')

theorem decodeClass_loadw_error_iff : decodeClass 2 t = .error .reservedUop ↔ 15 < t.toNat := by
  by_cases h : t < 16
  · rw [decodeClass_loadw h]
    exact iff_of_false nofun (by bv_omega)
  · exact iff_of_true (if_neg h) (by bv_omega)

theorem decodeClass_expand_error_iff : decodeClass 3 t = .error .reservedUop ↔ t.toNat < 16 := by
  by_cases h : t < 16
  · exact iff_of_true (if_pos h) h
  · refine iff_of_false ?_ h
    by_cases h' : t < 32
    · rw [decodeClass_expand16to31 (BitVec.not_lt.1 h) h']
      nofun
    · rw [decodeClass_expand32to63 (BitVec.not_lt.1 h')]
      nofun

theorem decodeClass_error_iff (c : BitVec 4) (t : BitVec 6) :
    decodeClass c t = .error .reservedUop ↔
      c.toNat = 0 ∨ 9 ≤ c.toNat ∨ (c.toNat = 2 ∧ 15 < t.toNat) ∨ (c.toNat = 3 ∧ t.toNat < 16) ∨
        ((c.toNat = 1 ∨ c.toNat = 4 ∨ c.toNat = 6 ∨ c.toNat = 7 ∨ c.toNat = 8) ∧ t.toNat ≠ 0) := by
  rcases class_rows c with rfl | rfl | hc | rfl | rfl | rfl | rfl | rfl | rfl | rfl
  · rw [decodeClass_loadw_error_iff]
    simp
  · rw [decodeClass_expand_error_iff]
    simp
  · rw [decodeClass_reserved hc]
    exact iff_of_true rfl (.inr (.inl hc))
  all_goals simp [decodeClass, decodeBareUop_error_iff]

theorem decodeUop_error_iff : decodeUop u = .error .reservedUop ↔
    uopZ2 u ≠ 0 ∨ decodeClass (uopClass u) (uopT u) = .error .reservedUop := by
  unfold decodeUop
  split_ifs with hz
  · exact (or_iff_right (not_not.2 hz)).symm
  · exact iff_of_true rfl (.inl hz)

/-- Settles O5: with Z2 = 0 a word is refused by its class and index. -/
theorem reservedUopsRefused : Obligations.ReservedUopsRefused := by
  intro u c z t hc hz ht
  rw [← uopClass_toNat] at hc
  rw [← uopZ2_toNat] at hz
  rw [← uopT_toNat] at ht
  subst hc hz ht
  have hz : (uopZ2 u).toNat ≠ 0 ↔ uopZ2 u ≠ 0 := not_congr (BitVec.toNat_inj (y := 0))
  rw [decodeUop_error_iff, decodeClass_error_iff, hz]
  exact or_left_comm.trans (or_congr_right or_left_comm)

/-- Settles O1: each word is evaluated. -/
theorem specWordsDecode : Obligations.SpecWordsDecode :=
  ⟨rfl, rfl, rfl, rfl, rfl, rfl, rfl, rfl⟩

end Sys2Proof
end

section
/-! SUPPORT. The words at the machine: STATUS as the host reads it, words that are refused, reserved
micro-operations, and the pseudo-instructions (30_encoding.md R92, R96, R102 to R104). -/

namespace Sys2Proof.Machine

variable {s : State} {t : BitVec 6}

/-! STATUS. -/

/-- STATUS by phase and errcode, the rest of the state being as after reset. -/
theorem statusWord_of {p : Phase} {e : BitVec 4} (hp : s.phase = p) (he : s.errcode = e) :
    s.statusWord = ({ State.reset with phase := p, errcode := e } : State).statusWord :=
  statusWord_congr hp he

/-- Settles O32: the invariant gives the six pairs of phase and errcode. -/
theorem statusTable : Obligations.StatusTable := by
  intro s hI
  rcases hI.status with ⟨hp, hle⟩ | ⟨hp, he⟩
  · have he : s.errcode = 0 ∨ s.errcode = 1 ∨ s.errcode = 2 := by bv_omega
    rcases he with he | he | he
    · exact .inl ⟨hp, he, statusWord_of hp he⟩
    · exact .inr (.inr (.inr (.inr (.inl ⟨hp, he, statusWord_of hp he⟩))))
    · exact .inr (.inr (.inr (.inr (.inr ⟨hp, he, statusWord_of hp he⟩))))
  · cases hphase : s.phase with
    | idle => exact absurd hphase hp
    | framing => exact .inr (.inl ⟨rfl, he, statusWord_of hphase he⟩)
    | perblock => exact .inr (.inr (.inl ⟨rfl, he, statusWord_of hphase he⟩))
    | done => exact .inr (.inr (.inr (.inl ⟨rfl, he, statusWord_of hphase he⟩)))

/-! Refusals and faults. -/

/-- Settles O42: the row answers so by definition, and the decoder refuses the word. -/
theorem rsvIsRefused : Obligations.RsvIsRefused := by
  intro s
  refine ⟨fun we x v => rfl, fun w rest hturns hrsv => ?_⟩
  rw [step_eq_takeTurn hturns]
  exact hostTurn_refuses ((decodeHtw_error_iff w).2 hrsv)

theorem exec_loadw_faults (h : ¬ t < 16) : exec (.loadw t) s = .fault .reservedUop := if_neg h

theorem exec_expand16to31_faults (h : ¬ (16 ≤ t ∧ t < 32)) :
    exec (.expand16to31 t) s = .fault .reservedUop := if_neg h

theorem exec_expand32to63_faults (h : ¬ 32 ≤ t) :
    exec (.expand32to63 t) s = .fault .reservedUop := if_neg h

theorem engineTurn_faults {r : Reject} (hb : s.busy = true) (h : decodeUop s.seq = .error r) :
    engineTurn s = .fault .reservedUop := by
  simp [engineTurn, hb, h]

/-- Settles O21: each meaning checks its range, and the engine's turn the word. -/
theorem reservedUopFaults : Obligations.ReservedUopFaults := by
  intro s
  refine ⟨fun t h => exec_loadw_faults (by bv_omega),
    fun t h => ⟨exec_expand16to31_faults (by bv_omega), exec_expand32to63_faults (by bv_omega)⟩,
    fun hb hd => ⟨fun hturns => ?_, fun rest hturns => ?_⟩,
    fun t h => exec_expand16to31_faults (by bv_omega),
    fun t h h' => exec_expand32to63_faults (by bv_omega)⟩
  · rw [step_eq_engineTurn hturns]
    exact engineTurn_faults hb hd
  · rw [step_eq_takeTurn hturns]
    exact engineTurn_faults (s := setTurns rest s) hb hd

/-! The pseudo-instructions. -/

/-- The number of a write's word (30_encoding.md R91, R103). -/
theorem wrTurn_eq (slot : BitVec 6) (v : Word) :
    wrTurn slot v = .host (BitVec.ofNat 40 (2 ^ 39 + slot.toNat * 2 ^ 32 + v.toNat)) := by
  rw [wrTurn, htwWord_eq_ofNat]
  rfl

theorem wr64Turns_eq (slot : BitVec 6) (v : Dword) : wr64Turns slot v =
    [.host (BitVec.ofNat 40 (2 ^ 39 + slot.toNat * 2 ^ 32 + v.toNat % 2 ^ 32)),
     .host (BitVec.ofNat 40 (2 ^ 39 + (slot + 1).toNat * 2 ^ 32 + v.toNat / 2 ^ 32))] := by
  rw [wr64Turns, wrTurn_eq, wrTurn_eq, extract_zero_toNat, extract_top_toNat v rfl]

/-- Settles O52: a 64-bit write is its two halves, the rest is the expansion written out, and the POLL
turn reads STATUS once. -/
theorem pseudoInstructions : Obligations.PseudoInstructions := by
  refine ⟨wr64Turns_eq 2, wr64Turns_eq 4, rfl, rfl, fun src len => rfl, fun s rest hturns => ?_⟩
  rw [step_eq_takeTurn hturns]
  have hpoll := pollTurn_eq (setTurns rest s)
  have hstatus : (setTurns rest s).statusWord = s.statusWord := rfl
  rw [hstatus] at hpoll
  constructor
  all_goals
    intro h
    rw [h] at hpoll
    exact hpoll

end Sys2Proof.Machine
end

section
/-! SUPPORT. The datapath by number and by bit: rotation and shift, the choice and the majority, the sigma
functions, and the two ROMs (40_datapath.md R120 to R130). -/

namespace Sys2Proof.Machine

/-! Rotation and shift. -/

theorem shr_toNat (x : Word) (n : Nat) : (shr x n).toNat = x.toNat / 2 ^ n := by
  rw [shr, BitVec.toNat_ushiftRight, Nat.shiftRight_eq_div_pow]

theorem rotr_toNat (x : Word) (n : Nat) :
    (rotr x n).toNat = x.toNat / 2 ^ n ||| x.toNat * 2 ^ (32 - n) % 2 ^ 32 := by
  rw [rotr, BitVec.toNat_or, BitVec.toNat_ushiftRight, BitVec.toNat_shiftLeft,
    Nat.shiftRight_eq_div_pow, Nat.shiftLeft_eq]

/-- The bits below 32 - n come from above and the others wrap around (40_datapath.md R120). -/
theorem rotr_getLsbD (x : Word) {n i : Nat} (hn : n < 32) (hi : i < 32) :
    (rotr x n).getLsbD i = x.getLsbD ((i + n) % 32) := by
  rw [rotr_eq_rotateRight x hn, BitVec.getLsbD_rotateRight, Nat.mod_eq_of_lt hn]
  by_cases hlow : i < 32 - n
  · have hidx : (i + n) % 32 = n + i := by omega
    simp [hlow, hidx]
  · have hidx : (i + n) % 32 = i - (32 - n) := by omega
    simp [hlow, hi, hidx]

/-- Settles O10: a logical shift right divides by the power of two. -/
theorem shrIsFloor : Obligations.ShrIsFloor :=
  shr_toNat

/-- Settles O9: the formula by the two shifts, the bits by the library's rotation. -/
theorem rotrMovesBits : Obligations.RotrMovesBits :=
  fun x n _ hn => ⟨rotr_toNat x n, fun _ hi => rotr_getLsbD x (Nat.lt_succ_of_le hn) hi⟩

/-! The choice and the majority. -/

theorem ch_getLsbD (e f g : Word) {i : Nat} (hi : i < 32) :
    (ch e f g).getLsbD i = if e.getLsbD i then f.getLsbD i else g.getLsbD i := by
  simp only [ch, BitVec.getLsbD_xor, BitVec.getLsbD_and, BitVec.getLsbD_not, hi]
  cases e.getLsbD i <;> simp

theorem maj_getLsbD (a b c : Word) (i : Nat) :
    (maj a b c).getLsbD i =
      decide (2 ≤ (a.getLsbD i).toNat + (b.getLsbD i).toNat + (c.getLsbD i).toNat) := by
  simp only [maj, BitVec.getLsbD_xor, BitVec.getLsbD_and]
  generalize a.getLsbD i = p, b.getLsbD i = q, c.getLsbD i = r
  revert p q r
  decide

/-- Settles O11: the definitions are the spec's expressions, and each bit depends on three bits. -/
theorem chMajByBit : Obligations.ChMajByBit :=
  ⟨fun _ _ _ => rfl, fun _ _ _ => rfl, fun e f g _ hi => ch_getLsbD e f g hi,
    fun a b c i _ => maj_getLsbD a b c i⟩

/-! The sigma functions. -/

/-- Settles O12: each rotation is the library's, and `shr` is the shift. -/
theorem sigmaFunctions : Obligations.SigmaFunctions := by
  intro x
  simp [bsig0, bsig1, ssig0, ssig1, shr, rotr_eq_rotateRight x]

/-! The ROMs. -/

/-- Settles O13: each table entry and its prime are numbers, and the integer part of the root is searched
below its bound. -/
theorem romsAreRootsOfPrimes : Obligations.RomsAreRootsOfPrimes := by
  rintro _ rfl
  constructor
  · decide
  · decide

end Sys2Proof.Machine
end

section
/-! SUPPORT. Padding: the quantities of an accepted length, the padded byte by its cases, and FRAME
(41_padding.md R150 to R153). -/

namespace Sys2Proof.Machine

variable {s : State} {j : Nat}

/-! The quantities. -/

theorem bitLength_eq_ofNat (v : Dword) : bitLength v = BitVec.ofNat 64 (8 * v.toNat) :=
  BitVec.eq_of_toNat_eq (by simp [bitLength])

/-- BITLEN of an accepted length loses no bit (41_padding.md R150). -/
theorem bitLength_toNat {len : Nat} (h : len < 2 ^ 61) :
    (bitLength (BitVec.ofNat 64 len)).toNat = 8 * len := by
  rw [bitLength_eq_ofNat, BitVec.toNat_ofNat, BitVec.toNat_ofNat]
  omega

theorem zeroBytes_toInt (len : Nat) : (Ref.zeroBytes len : Int) = (55 - (len : Int)) % 64 :=
  Int.toNat_of_nonneg (Int.emod_nonneg _ (by decide))

theorem zeroBytes_le (len : Nat) : Ref.zeroBytes len ≤ 63 := by
  have hz := zeroBytes_toInt len
  omega

theorem blockCount_le_of_fits {len n : Nat} (h : len + 9 ≤ 64 * n) : blockCount len ≤ n := by
  unfold blockCount
  omega

theorem blockCount_mono {len len' : Nat} (h : len ≤ len') : blockCount len ≤ blockCount len' := by
  unfold blockCount
  omega

/-- Settles O14: Z is a remainder, the padding fills the last block, and NBLK grows with L up to its
value at the largest length. -/
theorem paddingQuantities : Obligations.PaddingQuantities := by
  rintro L Z K hL rfl rfl
  have hlt : L < 2 ^ 61 := by omega
  have hle := zeroBytes_le L
  have hfill := Ref.zeroBytes_add L
  have hbound : blockCount (2 ^ 61 - 1) = 2 ^ 55 + 1 := by decide
  exact ⟨zeroBytes_toInt L, hle, rfl, hfill.symm, fun _ => blockCount_le_of_fits,
    bitLength_toNat hlt, by omega, by omega, by omega, by omega, by omega,
    hbound ▸ blockCount_mono hL, hbound, blockCount_lt hlt⟩

/-! The padded byte. -/

/-- A byte of the message (41_padding.md R151). -/
theorem padByte_message (ha : s.accepted) (h : j < s.LEN.toNat) :
    s.SRC.toNat + j < s.msgSize ∧ padByte s j = .ok (s.mem.read (s.SRC.toNat + j)) := by
  have hin : s.SRC.toNat + j < s.msgSize := by have := ha.2; omega
  exact ⟨hin, (if_pos h).trans (memRead_eq_ok hin)⟩

theorem padByte_marker (s : State) : padByte s s.LEN.toNat = .ok 0x80 := by
  simp [padByte]

theorem padByte_zero (h : s.LEN.toNat < j) (hj : j + 8 < s.paddedLen) : padByte s j = .ok 0x00 := by
  rw [padByte, if_neg (by omega), if_neg (by omega), if_pos hj]

theorem padByte_length (h : s.LEN.toNat < j) (hj : s.paddedLen ≤ j + 8) (hlt : j < s.paddedLen) :
    padByte s j = .ok (beByte8 s.BITLEN (j + 8 - s.paddedLen)) := by
  rw [padByte, if_neg (by omega), if_neg (by omega), if_neg (by omega), if_pos hlt]

/-- The marker lies before the length bytes (41_padding.md R151). -/
theorem paddedLen_gt (hf : s.framed) : s.LEN.toNat + 8 < s.paddedLen := by
  have hfill := Ref.zeroBytes_add s.LEN.toNat
  rw [paddedLen_of_framed hf, length_message]
  omega

/-- Settles O15: the model's four cases are the rule's, the length bytes coming after the marker. -/
theorem paddedByteCases : Obligations.PaddedByteCases := by
  intro s j P ha hf hP hj
  change P = s.paddedLen at hP
  subst hP
  have hgt := paddedLen_gt hf
  refine ⟨by omega, padByte_message ha, ?_, fun h h8 => padByte_zero h (by omega), fun h8 => ?_⟩
  · rintro rfl
    exact padByte_marker s
  · have hk : j + 8 - s.paddedLen = j - (s.paddedLen - 8) := by omega
    rw [padByte_length (by omega) (by omega) hj, beByte8_eq, hk]

/-- Settles O16: the reference's padded message fills the blocks, and the two agree byte by byte. -/
theorem paddedByteIsStandard : Obligations.PaddedByteIsStandard := by
  intro s ha hf
  have hlen : (Ref.padded s.message).length = s.paddedLen := by
    rw [Ref.length_padded, paddedLen_of_framed hf]
  exact ⟨hlen, fun _ hj => padByte_eq_byteAt ha hf hj⟩

/-! FRAME. -/

theorem frameState_eq (s : State) : frameState s = { s with
    BITLEN := BitVec.ofNat 64 (8 * s.LEN.toNat)
    NBLK := BitVec.ofNat 56 ((s.LEN.toNat + 8) / 64 + 1)
    blk := 0
    phase := .perblock
    seq := 0x200 } := by
  rw [frameState, bitLength_eq_ofNat]
  rfl

/-- A BUSY engine runs FRAME exactly in FRAMING (10_state.md R34). -/
theorem Invariant.decode_frame_iff (hI : Invariant s) (hb : s.busy = true) :
    decodeUop s.seq = .ok .frame ↔ s.phase = .framing := by
  constructor
  · intro hd
    rcases hI.seq_cases hb hd with ⟨hp, -⟩ | ⟨-, -, hfit⟩
    · exact hp
    · exact hfit.elim
  · intro hp
    rw [hI.framing hp]
    rfl

/-- After an accepted START the engine runs FRAME (45_host_interface.md R240). -/
theorem engineTurn_acceptStart (s : State) :
    engineTurn (acceptStart s) = exec .frame (acceptStart s) :=
  engineTurn_of_decode rfl decode_frame

/-- Settles O17: FRAME's next state is `frameState`, framed on a length below 2^61; the invariant ties
FRAME to FRAMING, and an accepted START leaves FRAME in `seq`. -/
theorem frameResult : Obligations.FrameResult := by
  refine ⟨decode_frame, fun s => congrArg Host.Outcome.next (frameState_eq s), fun s h => ?_,
    fun s hI hb => hI.decode_frame_iff hb, fun s t g hb ha hx => ?_⟩
  · have hframed := frameState_framed h
    rw [frameState_eq] at hframed
    exact hframed
  · rw [exec_start_accepted g hb ha] at hx
    cases hx
    exact ⟨rfl, rfl, decode_frame, engineTurn_acceptStart s⟩

end Sys2Proof.Machine
end

section
/-! SUPPORT. The schedule: the words of LOADW and EXPAND by number, what each writes, and where LOADW
faults (42_schedule.md R170, R171). -/

namespace Sys2Proof.Machine

variable {s : State} {t : BitVec 6} {j k : Nat} {r : Fault}

/-! The words. -/

/-- A UOP is its three fields side by side (30_encoding.md R100). -/
theorem uop_toNat (u : Uop) :
    u.toNat = 256 * (uopClass u).toNat + 64 * (uopZ2 u).toNat + (uopT u).toNat := by
  rw [uopClass_toNat, uopZ2_toNat, uopT_toNat]
  omega

theorem uopWord_toNat (c : BitVec 4) (t : BitVec 6) :
    (uopWord c t).toNat = 256 * c.toNat + t.toNat := by
  obtain ⟨hc, hz, ht⟩ := uop_fields_word c t
  rw [uop_toNat, hc, hz, ht]
  rfl

/-- A word by its class and index as a number (30_encoding.md R100). -/
theorem uopWord_eq_ofNat (c : BitVec 4) (t : BitVec 6) :
    uopWord c t = BitVec.ofNat 12 (256 * c.toNat + t.toNat) := by
  rw [← uopWord_toNat, BitVec.ofNat_toNat, BitVec.setWidth_eq]

theorem decodeUop_ofNat (c : BitVec 4) (t : BitVec 6) :
    decodeUop (BitVec.ofNat 12 (256 * c.toNat + t.toNat)) = decodeClass c t := by
  rw [← uopWord_eq_ofNat, decodeUop_uopWord]

/-- The word of the next index, below the last one. -/
theorem uopWord_succ (c : BitVec 4) (h : t.toNat < 63) :
    uopWord c (t + 1) = BitVec.ofNat 12 (256 * c.toNat + t.toNat + 1) := by
  have hsucc : (t + 1).toNat = t.toNat + 1 := by bv_omega
  rw [uopWord_eq_ofNat, hsucc, Nat.add_assoc]

theorem afterLoadw_eq (t : BitVec 6) : afterLoadw t =
    if t.toNat < 15 then BitVec.ofNat 12 (0x200 + t.toNat + 1) else 0x310 :=
  ite_congr rfl (fun h : t.toNat < 15 => uopWord_succ 2 (by omega)) fun _ => rfl

theorem afterExpand_eq (t : BitVec 6) : afterExpand t =
    if t.toNat < 63 then BitVec.ofNat 12 (0x300 + t.toNat + 1) else 0x400 :=
  ite_congr rfl (fun h : t.toNat < 63 => uopWord_succ 3 h) fun _ => rfl

/-! LOADW. -/

/-- Settles O18: on an accepted, framed input every byte of the block exists, so LOADW writes
the word of its four. -/
theorem loadwResult : Obligations.LoadwResult := by
  rintro s t j ht ha hf hb rfl
  have byte (k : Nat) (hk : k < 4) : padByte s (s.wordPos t + k) =
      .ok (Ref.byteAt s.message (s.wordPos t + k)) :=
    padByte_eq_byteAt ha hf (by unfold State.wordPos State.paddedLen; omega)
  have word := padWord_eq_ok (byte 0 (by omega)) (byte 1 (by omega)) (byte 2 (by omega))
    (byte 3 (by omega))
  refine ⟨(decodeUop_ofNat 2 t).trans (decodeClass_loadw ht), _, _, _, _, byte 0 (by omega),
    byte 1 (by omega), byte 2 (by omega), byte 3 (by omega),
    exec_loadw_eq_next_iff.2 ⟨ht, _, word, ?_⟩⟩
  rw [afterLoadw_eq]
  rfl

/-- When a padded byte does not exist, and why (log 15). -/
theorem padByte_eq_error_iff : padByte s j = .error r ↔
    (j < s.LEN.toNat ∧ s.msgSize ≤ s.SRC.toNat + j ∧ r = .msgAddress) ∨
      (s.LEN.toNat < j ∧ s.paddedLen ≤ j ∧ r = .padIndex) := by
  rcases padByte_cases s j with ⟨h, e⟩ | ⟨h, e⟩ | ⟨h, h8, e⟩ | ⟨h, -, h8, e⟩ | ⟨h, h8, e⟩
  · rcases memRead_cases s (s.SRC.toNat + j) with ⟨hm, em⟩ | ⟨hm, em⟩
    · simp only [e, em, reduceCtorEq, false_iff]
      omega
    · simp [e, em, h, hm, Nat.lt_asymm h, eq_comm]
  iterate 3
    · simp only [e, reduceCtorEq, false_iff]
      omega
  · simp [e, h, h8, Nat.lt_asymm h, eq_comm]

/-- A padded word exists with its four bytes, or ends at the first that does not (42_schedule.md
R170). -/
theorem padWord_cases (s : State) (j : Nat) :
    (∃ v, (∀ k < 4, ∃ b, padByte s (j + k) = .ok b) ∧ padWord s j = .ok v) ∨
      ∃ k r, k < 4 ∧ (∀ i < k, ∃ b, padByte s (j + i) = .ok b) ∧ padByte s (j + k) = .error r ∧
        padWord s j = .error r := by
  cases h0 : padByte s j with
  | error r => exact .inr ⟨0, r, by omega, by simp, h0, by simp [padWord, h0]⟩
  | ok b0 =>
    have upTo1 : ∀ i < 1, ∃ b, padByte s (j + i) = .ok b := by
      simp [h0]
    cases h1 : padByte s (j + 1) with
    | error r => exact .inr ⟨1, r, by omega, upTo1, h1, by simp [padWord, h0, h1]⟩
    | ok b1 =>
      have upTo2 := Nat.forall_lt_succ_right.2 ⟨upTo1, b1, h1⟩
      cases h2 : padByte s (j + 2) with
      | error r => exact .inr ⟨2, r, by omega, upTo2, h2, by simp [padWord, h0, h1, h2]⟩
      | ok b2 =>
        have upTo3 := Nat.forall_lt_succ_right.2 ⟨upTo2, b2, h2⟩
        cases h3 : padByte s (j + 3) with
        | error r => exact .inr ⟨3, r, by omega, upTo3, h3, by simp [padWord, h0, h1, h2, h3]⟩
        | ok b3 =>
          exact .inl ⟨_, Nat.forall_lt_succ_right.2 ⟨upTo3, b3, h3⟩, padWord_eq_ok h0 h1 h2 h3⟩

/-- A byte that does not exist ends the word with its fault, unless one before it has another. -/
theorem padWord_eq_error (hk : k < 4) (he : padByte s (j + k) = .error r)
    (hbefore : ∀ i < k, ∀ r', padByte s (j + i) = .error r' → r' = r) :
    padWord s j = .error r := by
  rcases padWord_cases s j with ⟨v, hok, -⟩ | ⟨n, r', hn, hok, hn', hw⟩
  · obtain ⟨b, hb⟩ := hok k hk
    cases he.symm.trans hb
  · rw [hw]
    rcases Nat.lt_trichotomy n k with hlt | rfl | hgt
    · rw [hbefore n hlt r' hn']
    · cases hn'.symm.trans he
      rfl
    · obtain ⟨b, hb⟩ := hok k hgt
      cases he.symm.trans hb

theorem exec_loadw_of_error (ht : t < 16) (h : padWord s (s.wordPos t) = .error r) :
    exec (.loadw t) s = .fault r := by
  simp only [exec, execLoadw, if_pos ht, h]

/-- Settles O22: a padded byte fails in two ways, and the word takes the fault of its first
failing byte; the bytes before a message byte are message bytes, which fail by their address alone. -/
theorem loadwFaultsOutside : Obligations.LoadwFaultsOutside := by
  intro s t j ht hj
  obtain rfl : j = s.wordPos t := hj
  refine ⟨?_, fun hmem => ⟨?_, fun hpad => ?_⟩⟩
  · rintro ⟨k, hk, hmsg, haddr⟩
    refine exec_loadw_of_error ht
      (padWord_eq_error hk (padByte_eq_error_iff.2 (.inl ⟨hmsg, haddr, rfl⟩)) fun i hi r' he => ?_)
    rcases padByte_eq_error_iff.1 he with ⟨-, -, hr⟩ | ⟨hlt, -⟩
    · exact hr
    · omega
  · rintro ⟨k, hk, hpast, hlen⟩
    refine exec_loadw_of_error ht
      (padWord_eq_error hk (padByte_eq_error_iff.2 (.inr ⟨hpast, hlen, rfl⟩)) fun i hi r' he => ?_)
    rcases padByte_eq_error_iff.1 he with ⟨hmsg, haddr, -⟩ | ⟨-, -, hr⟩
    · have := hmem i (by omega) hmsg
      omega
    · exact hr
  · rcases padWord_cases s (s.wordPos t) with ⟨v, -, hv⟩ | ⟨k, r, hk, -, he, -⟩
    · exact ⟨_, exec_loadw_eq_next_iff.2 ⟨ht, v, hv, rfl⟩⟩
    · rcases padByte_eq_error_iff.1 he with ⟨hmsg, haddr, -⟩ | ⟨hpast, hlen, -⟩
      · exact absurd (hmem k hk hmsg) (Nat.not_lt.2 haddr)
      · exact absurd (hpad k hk hpast) (Nat.not_lt.2 hlen)

/-! EXPAND. -/

theorem exec_expand16to31 (h : 16 ≤ t) (h' : t < 32) :
    exec (.expand16to31 t) s = .next (expandState t s) := if_pos ⟨h, h'⟩

theorem exec_expand32to63 (h : 32 ≤ t) :
    exec (.expand32to63 t) s = .next (expandState t s) := if_pos h

/-- The schedule read `k` words back. -/
theorem schedAt_sub {k : BitVec 6} (h : k.toNat ≤ t.toNat) :
    s.schedAt (t - k) = s.W[t.toNat - k.toNat]'(by omega) := by
  simp only [State.schedAt, BitVec.toNat_sub_of_le (BitVec.le_def.2 h)]

/-- EXPAND's next state in the reference's s0 and s1 (42_schedule.md R171). -/
theorem expandState_eq (h : 16 ≤ t.toNat) : expandState t s = { s with
    W := s.W.set t.toNat
      (s.W[t.toNat - 16]'(by omega) + Ref.s0 (s.W[t.toNat - 15]'(by omega)) +
        s.W[t.toNat - 7]'(by omega) + Ref.s1 (s.W[t.toNat - 2]'(by omega))) t.isLt
    seq := if t.toNat < 63 then BitVec.ofNat 12 (0x300 + t.toNat + 1) else 0x400 } := by
  have back {k : BitVec 6} (hk : k.toNat ≤ 16) := schedAt_sub (s := s) (hk.trans h)
  rw [expandState, afterExpand_eq, expandWord, back (k := 16) (by decide),
    back (k := 15) (by decide), back (k := 7) (by decide), back (k := 2) (by decide),
    ssig0_eq, ssig1_eq]
  rfl

/-- Settles O19: both rows decode from one class and answer one next state. -/
theorem expandResult : Obligations.ExpandResult := by
  intro s t i h hi
  have hdecode := decodeUop_ofNat 3 t
  rw [← expandState_eq h]
  rcases hi with ⟨hlt, rfl⟩ | ⟨hle, rfl⟩
  · exact ⟨hdecode.trans (decodeClass_expand16to31 h hlt), exec_expand16to31 h hlt⟩
  · exact ⟨hdecode.trans (decodeClass_expand32to63 hle), exec_expand32to63 hle⟩

end Sys2Proof.Machine
end

section
/-! SUPPORT. The compression: the words of INITWV, ROUND and FEEDBACK by number, and what each writes
(43_compression.md R190 to R192). -/

namespace Sys2Proof.Machine

/-! The words. -/

theorem decodeClass_round (t : BitVec 6) : decodeClass 5 t = .ok (.round t) := rfl

theorem afterRound_eq (t : BitVec 6) : afterRound t =
    if t.toNat < 63 then BitVec.ofNat 12 (0x500 + t.toNat + 1) else 0x600 :=
  ite_congr rfl (fun h : t.toNat < 63 => uopWord_succ 5 h) fun _ => rfl

theorem afterFeedback_eq (s : State) : afterFeedback s =
    if s.blk.toNat + 1 < s.NBLK.toNat then 0x700 else 0x800 := rfl

/-! INITWV. -/

/-- Settles O23: the word is class 4 with index 0, and INITWV copies H into the working variables. -/
theorem initwvResult : Obligations.InitwvResult :=
  ⟨decodeUop_uopWord 4 0, fun _ => rfl⟩

/-! ROUND. -/

/-- ROUND's working variables are the reference's, from the constant and the schedule word of its own
index (43_compression.md R191). -/
theorem exec_round (t : BitVec 6) (s : State) : exec (.round t) s = .next { s with
    wv := Ref.round s.wv (kRom[t.toNat]'(t.isLt)) (s.W[t.toNat]'(t.isLt))
    seq := if t.toNat < 63 then BitVec.ofNat 12 (0x500 + t.toNat + 1) else 0x600 } := by
  rw [← afterRound_eq, ← roundVars_eq]
  rfl

/-- Settles O24: the six abbreviations are those of the reference's round, which reads only the
working variables before it. -/
theorem roundResult : Obligations.RoundResult := by
  rintro s t _ _ _ _ _ _ rfl rfl rfl rfl rfl rfl
  exact ⟨(decodeUop_ofNat 5 t).trans (decodeClass_round t), exec_round t s⟩

/-! FEEDBACK. -/

/-- Settles O25: the word is class 6 with index 0, and FEEDBACK adds the eight words one by one. -/
theorem feedbackResult : Obligations.FeedbackResult := by
  refine ⟨decodeUop_uopWord 6 0, fun s => ?_⟩
  rw [← afterFeedback_eq]
  rfl

end Sys2Proof.Machine
end

section
/-! SUPPORT. The control transfers and the digest: the words of NEXTBLK and FINISH, what each writes,
when the engine waits, and the bytes of the digest (44_sequencer_serialization.md R211, R212, R214,
R215). -/

namespace Sys2Proof.Machine

variable {s : State}

/-! The engine's turn. -/

/-- Settles O7: both forms of the engine's turn run what `seq` decodes to. -/
theorem stepRunsMicroOperation : Obligations.StepRunsMicroOperation := by
  intro s i hb hd
  refine ⟨fun hturns => ?_, fun rest hturns => ?_⟩
  · rw [step_eq_engineTurn hturns]
    exact engineTurn_of_decode hb hd
  · rw [step_eq_takeTurn hturns]
    exact engineTurn_of_decode (s := setTurns rest s) hb hd

/-- Settles O8: the engine has no step while BUSY = 0. -/
theorem engineWaits : Obligations.EngineWaits := by
  intro s hp
  have hb := (busy_eq_false_iff s).2 hp
  refine ⟨fun hturns => ?_, fun rest hturns => ?_⟩
  · rw [step_eq_engineTurn hturns]
    exact engineTurn_waits hb
  · rw [step_eq_takeTurn hturns]
    exact engineTurn_waits (s := setTurns rest s) hb

/-! NEXTBLK and FINISH. -/

theorem blk_succ_eq_ofNat (s : State) : s.blk + 1 = BitVec.ofNat 56 (s.blk.toNat + 1) :=
  BitVec.eq_of_toNat_eq (by simp)

/-- Settles O26: the word is class 7 with index 0, and the precondition keeps `blk` below NBLK. -/
theorem nextblkResult : Obligations.NextblkResult := by
  refine ⟨decodeUop_uopWord 7 0, fun s hlt => ?_⟩
  rw [← blk_succ_eq_ofNat]
  exact ⟨rfl, nextblk_toNat hlt⟩

theorem settleHash_of_undisturbed (hu : s.msgDisturbed = false) : settleHash s = s := by
  simp [settleHash, hu]

theorem exec_finish_undisturbed (hu : s.msgDisturbed = false) :
    exec .finish s = .next { s with phase := .done } := by
  rw [exec, execFinish, settleHash_of_undisturbed hu]

theorem statusWord_of_done (hp : s.phase = .done) (he : s.errcode = 0) :
    s.statusWord = 0x00000032 :=
  statusWord_of hp he

theorem evt_of_done (hp : s.phase = .done) : s.evt = true := by
  simp [State.evt, State.isDone, hp]

/-- Settles O27: H stands as it is, and DONE fixes what the host sees. -/
theorem finishResult : Obligations.FinishResult :=
  ⟨decodeUop_uopWord 8 0, fun _ hu he =>
    ⟨_, exec_finish_undisturbed hu, rfl, statusWord_of_done rfl he, evt_of_done rfl,
      digestReg_of_done rfl, engineTurn_waits rfl⟩⟩

/-! The digest bytes. -/

/-- Byte k of a big-endian word is a quotient of it. -/
theorem beByte4_toNat (v : Word) (k : Nat) :
    (beByte4 v k).toNat = v.toNat / 256 ^ (3 - k) % 256 := by
  rw [beByte4, BitVec.extractLsb'_toNat, Nat.shiftRight_eq_div_pow, pow_mul,
    show 2 ^ 8 = 256 from rfl]

/-- Settles O29: each byte is a field of its word, and DONE shows the words. -/
theorem digestBytes : Obligations.DigestBytes := by
  intro s k
  have hfield : 8 * (3 - k.val % 4) = 24 - 8 * (k.val % 4) := by omega
  have hn : (BitVec.ofNat 3 (k.val / 4)).toNat = k.val / 4 := by
    rw [BitVec.toNat_ofNat]
    omega
  refine ⟨beByte4_toNat _ _, ?_, fun hp => ?_⟩
  · rw [digestByte, beByte4, hfield]
  · rw [digestReg_of_done hp]
    simp only [hn]

end Sys2Proof.Machine
end

section
/-! SUPPORT. Every step of a computation: it stays on SHA-256 of its message, moves the phases by the
table, and counts down to DONE (44_sequencer_serialization.md R210, R213, R214, R216). -/

namespace Sys2Proof.Machine

variable {s t : State} {i : Instr} {M : List Byte}

/-! A step that keeps the computation. -/

theorem message_storeByte {addr : Nat} (b : Byte) (h : s.inMessage addr = false) :
    (storeByte addr b s).message = s.message := by
  refine List.map_congr_left fun j hj => read_write_other s.mem b ?_
  intro (haddr : addr = s.SRC.toNat + j)
  have hlt : j < s.LEN.toNat := List.mem_range.1 hj
  have hin : s.inMessage addr = true := by simp [State.inMessage, haddr, hlt]
  simp [hin] at h

/-- A host write outside the message, or while BUSY = 0, leaves the computation (70_reset_and_hazards.md
R311). -/
theorem storeByte_computes {addr : Nat} (b : Byte) (hM : s.computes M)
    (hduty : s.busy = true → s.inMessage addr = false) : (storeByte addr b s).computes M := by
  have hmsg (hb : s.busy = true) := message_storeByte b (hduty hb)
  unfold State.computes at hM ⊢
  rw [storeByte_phase]
  cases hp : s.phase <;> simp only [hp] at hM ⊢
  case framing => exact ⟨(hmsg ((busy_iff s).2 (.inl hp))).trans hM.1, hM.2⟩
  case perblock => exact ⟨(hmsg ((busy_iff s).2 (.inr hp))).trans hM.1, hM.2⟩
  case done => exact hM

/-- While BUSY = 0 the computation is its hash state. -/
theorem computes_of_not_busy (hb : s.busy = false) (hphase : t.phase = s.phase) (hH : t.H = s.H)
    (hM : s.computes M) : t.computes M := by
  rcases (busy_eq_false_iff s).1 hb with hp | hp
  · simp only [State.computes, hphase, hp]
  · simpa only [State.computes, hphase, hp, hH] using hM

/-- A transaction that begins no computation leaves the one there is. -/
theorem host_computes {w : Htw} (hd : decodeHtw w = .ok i) (hx : exec i s = .next t)
    (hnew : ¬(s.busy = false ∧ t.busy = true)) (hM : s.computes M) : t.computes M := by
  rcases host_cases hd hx with ⟨v, rfl⟩ | rfl | ⟨v, hb, rfl⟩ | ⟨v, hb, rfl⟩ | ⟨g, -, hb, rfl⟩
  · exact hM
  · exact hM
  · exact computes_of_not_busy hb rfl rfl hM
  · exact computes_of_not_busy hb rfl rfl hM
  · rcases startIdle_cases s with ⟨-, h⟩ | ⟨-, -, -, h⟩ | ⟨-, h⟩ <;> rw [h] at hnew ⊢
    · trivial
    · trivial
    · exact absurd ⟨hb, rfl⟩ hnew

/-- Settles O58, by the agent of the step: only the host and the engine reach what a computation
consists of, the host by a write that the duty excludes while BUSY. -/
theorem stepKeepsSha : Obligations.StepKeepsSha := by
  intro s t M hI hM h hnew hu
  cases stepBy_of_step h with
  | host w rest i _ hd hx => exact host_computes (s := setTurns rest s) hd hx hnew hM
  | poll rest later _ _ ht => exact ht ▸ hM
  | memWrite addr b rest _ _ ht =>
    subst ht
    have hduty := (Bool.or_eq_false_iff.1 hu).2
    exact storeByte_computes (s := setTurns rest s) b hM fun hb => by simpa [hb] using hduty
  | uop rest i _ hb hd hx =>
    have hk := uop_keepsInput hd hx
    exact (hI.setTurns rest).uop_computes hb hd hx hM (hk.msgDisturbed ▸ hu)
  | wait rest _ _ ht => exact ht ▸ hM
  | rst rest _ ht => exact ht ▸ trivial

/-! The moves of the phase. -/

/-- Of the micro-operations only FRAME and NEXTBLK write `blk`. -/
theorem uop_blk {u : Uop} (hd : decodeUop u = .ok i) (hx : exec i s = .next t) :
    i = .frame ∨ (i = .nextblk ∧ t.blk = s.blk + 1) ∨ t.blk = s.blk := by
  rcases uop_cases hd hx with ⟨h, -⟩ | ⟨x, v, -, -, -, rfl⟩ | ⟨x, -, rfl⟩ | ⟨-, rfl⟩ |
    ⟨x, -, rfl⟩ | ⟨-, rfl⟩ | ⟨h, rfl⟩ | ⟨-, rfl⟩
  · exact .inl h
  case inr.inr.inr.inr.inr.inr.inl => exact .inr (.inl ⟨h, rfl⟩)
  case inr.inr.inr.inr.inr.inr.inr => exact .inr (.inr (settleHash_blk s))
  all_goals exact .inr (.inr rfl)

/-- What a micro-operation of PERBLOCK does to the block: NEXTBLK takes the next one, FINISH ends the
last one, and the others stay in it (44_sequencer_serialization.md R210). -/
theorem Invariant.perblock_moves (hI : Invariant s) (hp : s.phase = .perblock)
    (hd : decodeUop s.seq = .ok i) (hx : exec i s = .next t) :
    (t.phase = .perblock ∧ t.blk = s.blk) ∨
      (i = .nextblk ∧ s.blk.toNat + 1 < s.NBLK.toNat ∧ t.phase = .perblock ∧
        t.blk.toNat = s.blk.toNat + 1) ∨
      (i = .finish ∧ s.blk.toNat + 1 = s.NBLK.toNat ∧ t.phase = .done) := by
  have hb : s.busy = true := (busy_iff s).2 (.inr hp)
  rcases hI.uop_moves hb hd hx with ⟨hf, -⟩ | ⟨-, hpt, -, -⟩ | ⟨-, -, hi, hlast, rfl⟩
  · simp [hp] at hf
  · rcases hI.seq_cases hb hd with ⟨hf, -⟩ | ⟨-, -, hfit⟩
    · simp [hp] at hf
    · rcases uop_blk hd hx with rfl | ⟨rfl, hblk⟩ | hblk
      · exact hfit.elim
      · exact .inr (.inl ⟨rfl, hfit, hpt, hblk ▸ nextblk_toNat hfit⟩)
      · exact .inl ⟨hpt, hblk⟩
  · exact .inr (.inr ⟨hi, hlast, rfl⟩)

/-- A START while BUSY = 0 goes to FRAMING when the input is accepted, else to IDLE with a reason
(45_host_interface.md R240). -/
theorem startIdle_moves (s : State) :
    (s.accepted ∧ (startIdle s).phase = .framing) ∨
      (¬s.accepted ∧ (startIdle s).phase = .idle ∧ (startIdle s).errcode ≠ 0) := by
  rcases startIdle_cases s with ⟨hlen, h⟩ | ⟨-, hpos, hrange, h⟩ | ⟨ha, h⟩ <;> rw [h]
  · exact .inr ⟨fun ha => absurd ha.1 (Nat.not_lt.2 hlen), rfl, by simp⟩
  · exact .inr ⟨fun ha => by have := ha.2; omega, rfl, by simp⟩
  · exact .inl ⟨ha, rfl⟩

/-- Settles O43, by the agent of the step: the host moves the phase by a START while BUSY = 0, the
engine by FRAME, NEXTBLK and FINISH, and reset to IDLE. -/
theorem phaseMoves : Obligations.PhaseMoves := by
  intro s t hI h
  cases stepBy_of_step h with
  | host w rest i hturns hd hx =>
    rcases host_cases hd hx with ⟨v, rfl⟩ | rfl | ⟨v, -, rfl⟩ | ⟨v, -, rfl⟩ | ⟨g, rfl, hb, rfl⟩
    case inr.inr.inr.inr =>
      have hp := (busy_eq_false_iff s).1 hb
      rcases startIdle_moves (setTurns rest s) with ⟨ha, hpt⟩ | ⟨ha, hpt, he⟩
      · exact .inr (.inl ⟨hp, hpt, ha, w, rest, g, hturns, hd⟩)
      · exact .inr (.inr (.inl ⟨hp, hpt, he, ha, w, rest, g, hturns, hd⟩))
    all_goals exact .inl ⟨rfl, fun _ => rfl⟩
  | poll rest later _ _ ht => exact .inl (ht ▸ ⟨rfl, fun _ => rfl⟩)
  | memWrite addr b rest _ _ ht => exact .inl (ht ▸ ⟨rfl, fun _ => rfl⟩)
  | uop rest i _ hb hd hx =>
    have hI' := hI.setTurns rest
    rcases (busy_iff s).1 hb with hp | hp
    · have hseq := hI.framing hp
      rw [hseq] at hd
      cases hd
      cases hx
      exact .inr (.inr (.inr (.inl ⟨hp, hseq, rfl, rfl⟩)))
    · rcases hI'.perblock_moves hp hd hx with ⟨hpt, hblk⟩ | ⟨rfl, hmove⟩ | ⟨rfl, hmove⟩
      · exact .inl ⟨hpt.trans hp.symm, fun _ => hblk⟩
      · exact .inr (.inr (.inr (.inr (.inl ⟨hp, hd, hmove⟩))))
      · exact .inr (.inr (.inr (.inr (.inr (.inl ⟨hp, hd, hmove⟩)))))
  | wait rest _ _ ht => exact .inl (ht ▸ ⟨rfl, fun _ => rfl⟩)
  | rst rest hturns ht =>
    exact .inr (.inr (.inr (.inr (.inr (.inr ⟨ht ▸ rfl, ht ▸ rfl, rest, hturns⟩)))))

/-! The count of steps. -/

/-- The engine's step takes one from the count, and no other agent's but reset changes it. -/
theorem Invariant.step_counts (hI : Invariant s) (hb : s.busy = true) (h : step s = .next t) :
    (t.stepsLeft + 1 = s.stepsLeft ∧ ∃ rest, s.engineIsNext rest) ∨
      (t.stepsLeft = s.stepsLeft ∧ ∃ turn rest, s.turns = turn :: rest ∧ turn ≠ .engine) ∨
      ∃ rest, s.turns = .rst :: rest := by
  cases stepBy_of_step h with
  | host w rest i hturns hd hx =>
    refine .inr (.inl ⟨?_, _, rest, hturns, nofun⟩)
    rcases host_cases_busy (s := Machine.setTurns rest s) hb hd hx with ⟨v, rfl⟩ | rfl <;> rfl
  | poll rest later hturns _ ht => exact .inr (.inl ⟨ht ▸ rfl, _, rest, hturns, nofun⟩)
  | memWrite addr b rest hturns _ ht => exact .inr (.inl ⟨ht ▸ rfl, _, rest, hturns, nofun⟩)
  | uop rest i hturns _ hd hx => exact .inl ⟨(hI.setTurns rest).uop_counts hb hd hx, rest, hturns⟩
  | wait rest _ hnot _ => simp [hb] at hnot
  | rst rest hturns _ => exact .inr (.inr ⟨rest, hturns⟩)

/-- Settles O56: FRAME's own step and 131 for each block are left in FRAMING, and each agent's step
counts as its turn says. -/
theorem stepsCountDown : Obligations.StepsCountDown := by
  intro s t hI hb h
  refine ⟨stepsLeft_framing, hI.stepsLeft_pos hb, fun hnext => ?_, fun turn rest hturns he hr => ?_⟩
  · rcases hI.step_counts hb h with ⟨hc, -⟩ | ⟨-, turn, rest, hturns, he⟩ | ⟨rest, hturns⟩
    · exact hc
    · simp [hturns, he] at hnext
    · simp [hturns] at hnext
  · rcases hI.step_counts hb h with ⟨-, rest', hnext⟩ | ⟨hc, -⟩ | ⟨rest', hturns'⟩
    · simp [State.engineIsNext, hturns, he] at hnext
    · exact hc
    · simp [hturns, hr] at hturns'

/-! The engine alone. -/

/-- Left alone, a BUSY engine takes a step, which counts. -/
theorem Invariant.exists_step_alone (hI : Invariant s) (hb : s.busy = true) (hturns : s.turns = []) :
    ∃ t, step s = .next t ∧ Invariant t ∧ t.turns = [] ∧ t.stepsLeft + 1 = s.stepsLeft := by
  obtain ⟨i, t, hd, hx⟩ := hI.exists_uop hb
  exact ⟨t, by rw [step_eq_engineTurn hturns, engineTurn_of_decode hb hd, hx],
    hI.uop_keeps hb hd hx, (uop_keepsInput hd hx).turns.trans hturns, hI.uop_counts hb hd hx⟩

/-- Before its steps are done the engine is BUSY (44_sequencer_serialization.md R213). -/
theorem run_lt_stepsLeft {n : Nat} (hI : Invariant s) (hturns : s.turns = [])
    (hn : n < s.stepsLeft) : ∃ u, Host.Core.run core n s = .next u ∧ u.busy = true := by
  induction n generalizing s with
  | zero => exact ⟨s, rfl, busy_of_stepsLeft_ne_zero (by omega)⟩
  | succ n ih =>
    obtain ⟨t, hstep, hIt, htt, hcount⟩ :=
      hI.exists_step_alone (busy_of_stepsLeft_ne_zero (by omega)) hturns
    rw [run_succ n hstep]
    exact ih hIt htt (by omega)

/-- Settles O57: the steps left lead to DONE, each keeping the input, and a shorter run still has
steps left. -/
theorem busyEngineReachesDone : Obligations.BusyEngineReachesDone := by
  intro s hI hb hturns
  have hp : s.phase ≠ .idle := by
    intro hp
    simp [State.busy, hp] at hb
  obtain ⟨t, hrun, hdone, hsrc, hlen, hmem⟩ := run_stepsLeft
    (P := fun v => v.SRC = s.SRC ∧ v.LEN = s.LEN ∧ v.mem = s.mem)
    (fun _ _ hd hx ⟨hsrc, hlen, hmem⟩ =>
      have hk := uop_keepsInput hd hx
      ⟨hk.SRC.trans hsrc, hk.LEN.trans hlen, hk.mem.trans hmem⟩)
    hI hturns hp ⟨rfl, rfl, rfl⟩
  exact ⟨t, hrun, hdone, hsrc, hlen, hmem, fun n hn => run_lt_stepsLeft hI hturns hn⟩

end Sys2Proof.Machine
end

section
/-! SUPPORT. Fields put side by side, as numbers, and the host's words by their numbers
(30_encoding.md R91, R93, R95, R103). -/

namespace Sys2Proof

variable {slot : BitVec 6} {v : Word} {w : Htw} {i : Instr}

theorem append_toNat {m n : Nat} (x : BitVec m) (y : BitVec n) :
    (x ++ y).toNat = x.toNat * 2 ^ n + y.toNat := by
  rw [BitVec.toNat_append, ← Nat.shiftLeft_add_eq_or_of_lt y.isLt, Nat.shiftLeft_eq]

theorem digestSlot_toNat (n : BitVec 3) : (digestSlot n).toNat = 8 + n.toNat :=
  append_toNat 1 n

theorem decodeHtw_readNumber {n : Nat} (hn : n = slot.toNat * 2 ^ 32) (h : decodeRead slot = i) :
    decodeHtw (BitVec.ofNat 40 n) = .ok i := by
  have hword : BitVec.ofNat 40 n = htwWord 0 0 slot 0 := by
    rw [htwWord_eq_ofNat, hn]
    simp
  rw [hword]
  exact decode_readWord_of h

theorem decodeHtw_writeNumber {n : Nat} (hn : n = 2 ^ 39 + slot.toNat * 2 ^ 32 + v.toNat)
    (h : decodeWrite slot v = i) : decodeHtw (BitVec.ofNat 40 n) = .ok i := by
  have hword : BitVec.ofNat 40 n = htwWord 1 0 slot v := by
    rw [htwWord_eq_ofNat, hn]
    rfl
  rw [hword]
  exact decode_writeWord_of h

/-- The word of START, whatever its ignored bits (45_host_interface.md R240). -/
theorem decodeHtw_startNumber (g : BitVec 28) :
    decodeHtw (BitVec.ofNat 40 (0x8000000001 + 16 * g.toNat)) = .ok (.start g) := by
  have hdata : (g ++ (1 : BitVec 4) : Word).toNat = g.toNat * 2 ^ 4 + 1 := append_toNat g 1
  have hcommand : decodeWrite 0 (g ++ (1 : BitVec 4)) = .start g := by
    show decodeCommand (ctrlIgn _) (ctrlCmd _) = _
    rw [ctrlIgn_word, ctrlCmd_word]
    rfl
  refine decodeHtw_writeNumber (slot := 0) ?_ hcommand
  rw [hdata]
  show _ = 2 ^ 39 + 0 * 2 ^ 32 + _
  omega

/-! A decoded word by WE, bit 39 (30_encoding.md R91, R92). -/

theorem decodeHtw_ok_read (hwe : w.getLsbD 39 = false) (hd : decodeHtw w = .ok i) :
    i = decodeRead (htwSlot w) := by
  obtain ⟨-, ⟨-, hi⟩ | ⟨h, -⟩⟩ := decodeHtw_ok hd
  · exact hi
  · rw [htwWe, extract_bit, hwe] at h
    cases h

theorem decodeHtw_ok_write (hwe : w.getLsbD 39 = true) (hd : decodeHtw w = .ok i) :
    i = decodeWrite (htwSlot w) (htwData w) := by
  obtain ⟨-, ⟨h, -⟩ | ⟨-, hi⟩⟩ := decodeHtw_ok hd
  · rw [htwWe, extract_bit, hwe] at h
    cases h
  · exact hi

end Sys2Proof
end

section
/-! SUPPORT. The host's turn, and the reads: what each returns (45_host_interface.md R230 to R235). -/

namespace Sys2Proof.Machine

variable {s : State} {slot : BitVec 6}

/-- Settles O6: the host's turn decodes its word and runs it. -/
theorem stepRunsTransaction : Obligations.StepRunsTransaction := by
  intro s w rest i hturns hd
  rw [step_eq_takeTurn hturns]
  exact hostTurn_of_decode hd

theorem loHalf_eq_ofNat (d : Dword) : loHalf d = BitVec.ofNat 32 (d.toNat % 2 ^ 32) := by
  rw [← extract_zero_toNat, BitVec.ofNat_toNat, BitVec.setWidth_eq, loHalf]

theorem hiHalf_eq_ofNat (d : Dword) : hiHalf d = BitVec.ofNat 32 (d.toNat / 2 ^ 32) := by
  rw [← extract_top_toNat (len := 32) d rfl, BitVec.ofNat_toNat, BitVec.setWidth_eq, hiHalf]

/-- Settles O33: the words are evaluated, and each read returns its half. -/
theorem readOperands : Obligations.ReadOperands := by
  refine ⟨⟨rfl, rfl, rfl, rfl⟩, fun s => ?_⟩
  simp only [← loHalf_eq_ofNat, ← hiHalf_eq_ofNat]
  exact ⟨rfl, rfl, rfl, rfl⟩

theorem digestReg_eq_ite (s : State) (n : BitVec 3) :
    s.digestReg n = if s.phase = .done then s.H[n.toNat]'(n.isLt) else 0 := by
  split_ifs with hp
  · exact digestReg_of_done hp n
  · exact digestReg_of_not_done hp n

/-- Settles O34: the slot of DIGESTn is 8 + n, and DONE shows the hash state. -/
theorem readDigest : Obligations.ReadDigest := by
  refine fun s n => ⟨decodeHtw_readNumber ?_ (decodeRead_digestSlot n), ?_⟩
  · rw [digestSlot_toNat]
    omega
  · rw [← digestReg_eq_ite]
    rfl

theorem exec_decodeRead_zero (h : slot = 0 ∨ (6 ≤ slot ∧ slot < 8) ∨ 16 ≤ slot) :
    exec (decodeRead slot) s = .next (returnData 0 s) := by
  rcases h with rfl | ⟨hlo, hhi⟩ | hlo
  · rfl
  · rw [decodeRead_reserved6to7 hlo hhi]
    rfl
  · by_cases hhi : slot < 32
    · rw [decodeRead_reserved16to31 hlo hhi]
      rfl
    · rw [decodeRead_reserved32to63 (BitVec.not_lt.1 hhi)]
      rfl

/-- Settles O30: each row returns 0, and the slots are those of these rows. -/
theorem readCtrlAndReserved : Obligations.ReadCtrlAndReserved := by
  constructor
  · rintro s i (rfl | ⟨x, rfl⟩ | ⟨x, rfl⟩ | ⟨x, rfl⟩) <;> rfl
  · intro s w x hx hrsv hwe hslot
    rw [← htwSlot_toNat] at hx
    exact ⟨_, decodeHtw_read hrsv hwe, exec_decodeRead_zero (by bv_omega)⟩

/-- STATUS as the sum of its fields (30_encoding.md R96). -/
theorem statusWord_toNat (s : State) : s.statusWord.toNat =
    s.busy.toNat + 2 * s.isDone.toNat + 4 * s.err.toNat + 16 * (phaseCode s.phase).toNat +
      256 * s.errcode.toNat := by
  simp only [State.statusWord, append_toNat, BitVec.toNat_ofBool, BitVec.ofNat_eq_ofNat,
    BitVec.toNat_ofNat, Nat.zero_mod]
  omega

/-- Settles O31: RD STATUS returns the status word, whose values the invariant gives. -/
theorem readStatus : Obligations.ReadStatus := by
  refine ⟨rfl, fun s => ⟨s.statusWord, rfl, ?_, fun hI => ?_⟩⟩
  · have herr : 4 * s.err.toNat = if s.errcode ≠ 0 then 4 else 0 := by
      by_cases he : s.errcode = 0#4 <;> simp [State.err, he]
    rw [statusWord_toNat, herr]
    cases hp : s.phase <;> simp [State.busy, State.isDone, phaseCode, hp]
  · rcases statusTable s hI with ⟨-, -, h⟩ | ⟨-, -, h⟩ | ⟨-, -, h⟩ | ⟨-, -, h⟩ | ⟨-, -, h⟩ |
      ⟨-, -, h⟩ <;> simp [h]

end Sys2Proof.Machine
end

section
/-! SUPPORT. The writes: which have no effect, which replace half an operand, and what a START does
(45_host_interface.md R236 to R245; 60_exceptions.md R271, R273). -/

namespace Sys2Proof.Machine

variable {s t : State} {slot : BitVec 6} {v : Word} {ign : BitVec 28} {cmd : BitVec 4}

/-! Writes without effect. -/

theorem exec_decodeCommand_ignored (h : cmd ≠ 1) : exec (decodeCommand ign cmd) s = .next s := by
  rcases cmd_rows cmd with rfl | rfl | ⟨hlo, hhi⟩ | ⟨hlo, hhi⟩ | hlo
  · rfl
  · exact absurd rfl h
  · rw [decodeCommand_reserved2to3 hlo hhi]
    rfl
  · rw [decodeCommand_reserved4to7 hlo hhi]
    rfl
  · rw [decodeCommand_reserved8toF hlo]
    rfl

theorem exec_decodeWrite_ignored (h : (slot = 0 ∧ ctrlCmd v ≠ 1) ∨ slot = 1 ∨ 6 ≤ slot) :
    exec (decodeWrite slot v) s = .next s := by
  rcases h with ⟨rfl, hcmd⟩ | rfl | hlo
  · exact exec_decodeCommand_ignored hcmd
  · rfl
  · rw [decodeWrite_of_six_le hlo]
    split_ifs <;> rfl

/-- Settles O37: each row leaves the state, and the words are those of these rows. -/
theorem writesWithoutEffect : Obligations.WritesWithoutEffect := by
  constructor
  · rintro s i (⟨g, rfl⟩ | ⟨g, c, rfl⟩ | ⟨g, c, rfl⟩ | ⟨g, c, rfl⟩ | ⟨v, rfl⟩ | ⟨n, v, rfl⟩ |
      ⟨x, v, rfl⟩ | ⟨x, v, rfl⟩ | ⟨x, v, rfl⟩) <;> rfl
  · intro s w x hx hrsv hwe hslot
    rw [← htwSlot_toNat] at hx
    have hcmd : (ctrlCmd (htwData w)).toNat = w.toNat % 16 := by
      rw [ctrlCmd_toNat, htwData_toNat]
      omega
    exact ⟨_, decodeHtw_write hrsv hwe, exec_decodeWrite_ignored (by bv_omega)⟩

/-! START. -/

theorem exec_start_busy (g : BitVec 28) (hb : s.busy = true) : exec (.start g) s = .next s := by
  rw [exec, execStart, unlessBusy_of_busy _ hb]

theorem exec_start_idle (g : BitVec 28) (hb : s.busy = false) :
    exec (.start g) s = .next (startIdle s) := by
  rw [exec, execStart, unlessBusy_of_not_busy _ hb]

/-- LEN_TOO_LARGE is checked first (60_exceptions.md R273). -/
theorem exec_start_tooLarge (g : BitVec 28) (hb : s.busy = false) (h : 2 ^ 61 ≤ s.LEN.toNat) :
    exec (.start g) s = .next (reject 1 s) := by
  rw [exec_start_idle g hb, startIdle, startError, if_pos h]

/-- MSG_RANGE is checked second, of a message that is not empty (60_exceptions.md R273). -/
theorem exec_start_outOfRange (g : BitVec 28) (hb : s.busy = false) (hlen : s.LEN.toNat < 2 ^ 61)
    (hpos : 0 < s.LEN.toNat) (h : s.msgSize < s.SRC.toNat + s.LEN.toNat) :
    exec (.start g) s = .next (reject 2 s) := by
  rw [exec_start_idle g hb, startIdle, startError, if_neg (Nat.not_le.2 hlen), if_pos ⟨hpos, h⟩]

/-- Settles O39: START is dropped while BUSY. -/
theorem startWhileBusy : Obligations.StartWhileBusy :=
  ⟨decodeHtw_startNumber, fun _ g => exec_start_busy g⟩

/-- Settles O38: the checks of START in their order, and what phase and errcode show after each. -/
theorem startWhileIdle : Obligations.StartWhileIdle := by
  refine ⟨decodeHtw_startNumber, fun s g L hb hL => ?_⟩
  subst hL
  refine ⟨fun h => ⟨reject 1 s, exec_start_tooLarge g hb h, rfl, ?_⟩,
    fun hlen hpos h => ⟨reject 2 s, exec_start_outOfRange g hb hlen hpos h, rfl, ?_⟩,
    fun hlen h => ⟨acceptStart s, exec_start_accepted g hb ⟨hlen, h⟩, rfl, ?_⟩⟩
  · exact ⟨statusWord_of (p := .idle) (e := 1) rfl rfl, rfl, digestReg_of_not_done nofun⟩
  · exact ⟨statusWord_of (p := .idle) (e := 2) rfl rfl, rfl, digestReg_of_not_done nofun⟩
  · exact ⟨statusWord_of (p := .framing) (e := 0) rfl rfl, rfl, digestReg_of_not_done nofun⟩

/-- Settles O59: an accepted START loads H from IV and leaves the message as it is. -/
theorem startBeginsSha : Obligations.StartBeginsSha := by
  intro s t g hb ha hx
  cases (exec_start_accepted g hb ha).symm.trans hx
  exact ⟨acceptStart_computes s, rfl, rfl⟩

/-! The operand registers. -/

theorem withLo_eq_ofNat (d : Dword) (v : Word) :
    withLo d v = BitVec.ofNat 64 (d.toNat / 2 ^ 32 * 2 ^ 32 + v.toNat) := by
  rw [← extract_top_toNat (len := 32) d rfl, ← append_toNat, BitVec.ofNat_toNat, BitVec.setWidth_eq]
  rfl

theorem withHi_toNat (d : Dword) (v : Word) :
    (withHi d v).toNat = v.toNat * 2 ^ 32 + d.toNat % 2 ^ 32 := by
  rw [← extract_zero_toNat]
  exact append_toNat v (loHalf d)

theorem withHi_eq_ofNat (d : Dword) (v : Word) :
    withHi d v = BitVec.ofNat 64 (v.toNat * 2 ^ 32 + d.toNat % 2 ^ 32) := by
  rw [← withHi_toNat, BitVec.ofNat_toNat, BitVec.setWidth_eq]

theorem withHi_tooLarge_iff (d : Dword) (v : Word) :
    2 ^ 61 ≤ (withHi d v).toNat ↔ 0x20000000 ≤ v.toNat := by
  rw [withHi_toNat]
  omega

/-- Settles O35: the writes are dropped while BUSY, else replace their half; a high half from 2^29 on
makes a length that START refuses first. -/
theorem operandWrites : Obligations.OperandWrites := by
  refine ⟨fun v => ⟨decodeHtw_writeNumber (slot := 2) rfl rfl,
    decodeHtw_writeNumber (slot := 3) rfl rfl, decodeHtw_writeNumber (slot := 4) rfl rfl,
    decodeHtw_writeNumber (slot := 5) rfl rfl⟩, fun s v => ⟨fun hb => ?_, fun hb => ?_⟩⟩
  · have hdrop (f : State → State) : (.next (unlessBusy f s) : Host.Outcome State Fault Refusal) =
        .next s := by rw [unlessBusy_of_busy f hb]
    exact ⟨hdrop _, hdrop _, hdrop _, hdrop _⟩
  · have htake (f : State → State) : (.next (unlessBusy f s) : Host.Outcome State Fault Refusal) =
        .next (f s) := by rw [unlessBusy_of_not_busy f hb]
    simp only [← withLo_eq_ofNat, ← withHi_eq_ofNat]
    refine ⟨htake _, htake _, htake _, htake _, fun t g ht => ?_⟩
    cases (htake (setLen (withHi s.LEN v))).symm.trans ht
    have hlarge := withHi_tooLarge_iff s.LEN v
    exact ⟨hlarge, fun h => exec_start_tooLarge (s := setLen _ s) g hb (hlarge.2 h)⟩

/-! What a transaction leaves unchanged. -/

/-- A read changes the value returned alone (20_memory.md R67). -/
theorem exec_decodeRead (slot : BitVec 6) (s : State) :
    ∃ v, exec (decodeRead slot) s = .next (returnData v s) := by
  unfold decodeRead
  split_ifs <;> exact ⟨_, rfl⟩

theorem startIdle_hRdata (s : State) : (startIdle s).hRdata = s.hRdata := by
  rcases startIdle_cases s with ⟨-, h⟩ | ⟨-, -, -, h⟩ | ⟨-, h⟩ <;> rw [h] <;> rfl

theorem unlessBusy_hRdata {f : State → State} (hf : (f s).hRdata = s.hRdata) :
    (unlessBusy f s).hRdata = s.hRdata := by
  rcases unlessBusy_cases f s with ⟨-, h⟩ | ⟨-, h⟩ <;> rw [h]
  exact hf

theorem decodeCommand_hRdata (h : exec (decodeCommand ign cmd) s = .next t) :
    t.hRdata = s.hRdata := by
  by_cases hcmd : cmd = 1
  · subst hcmd
    cases h
    exact unlessBusy_hRdata (startIdle_hRdata s)
  · cases (exec_decodeCommand_ignored hcmd).symm.trans h
    rfl

theorem decodeWrite_hRdata (h : exec (decodeWrite slot v) s = .next t) : t.hRdata = s.hRdata := by
  have hrow : slot = 0 ∨ (slot = 1 ∨ 6 ≤ slot) ∨ slot = 2 ∨ slot = 3 ∨ slot = 4 ∨ slot = 5 := by
    bv_omega
  rcases hrow with rfl | hignored | rfl | rfl | rfl | rfl
  · exact decodeCommand_hRdata h
  · cases (exec_decodeWrite_ignored (.inr hignored)).symm.trans h
    rfl
  all_goals
    cases h
    exact unlessBusy_hRdata rfl

/-- START leaves the working variables, the schedule and what FRAME and NEXTBLK write
(45_host_interface.md R240). -/
theorem startIdle_internal (s : State) : (startIdle s).wv = s.wv ∧ (startIdle s).W = s.W ∧
    (startIdle s).blk = s.blk ∧ (startIdle s).BITLEN = s.BITLEN ∧ (startIdle s).NBLK = s.NBLK := by
  rcases startIdle_cases s with ⟨-, h⟩ | ⟨-, -, -, h⟩ | ⟨-, h⟩ <;> rw [h] <;>
    exact ⟨rfl, rfl, rfl, rfl, rfl⟩

/-- Settles O45: no transaction reaches the internal registers, a read returns a value alone, no write
touches the value returned, and while BUSY a write is dropped. -/
theorem hostTransactionFrame : Obligations.HostTransactionFrame := by
  intro w i s t hd hx
  refine ⟨?_, fun hwe => ?_, fun hwe => ?_, fun hb => ?_⟩
  · rcases host_cases hd hx with ⟨v, rfl⟩ | rfl | ⟨v, -, rfl⟩ | ⟨v, -, rfl⟩ | ⟨g, -, -, rfl⟩
    case inr.inr.inr.inr => exact startIdle_internal s
    all_goals exact ⟨rfl, rfl, rfl, rfl, rfl⟩
  · obtain rfl := decodeHtw_ok_read hwe hd
    obtain ⟨v, hv⟩ := exec_decodeRead (htwSlot w) s
    cases hv.symm.trans hx
    rfl
  · obtain rfl := decodeHtw_ok_write hwe hd
    exact decodeWrite_hRdata hx
  · rcases host_cases_busy hb hd hx with ⟨v, rfl⟩ | rfl <;> rfl

end Sys2Proof.Machine
end

section
/-! SUPPORT. The `evt` output: what it shows of STATUS, and what sets and clears it (60_exceptions.md
R275; 10_state.md R38). -/

namespace Sys2Proof.Machine

variable {s t : State} {i : Instr}

/-! The level. -/

theorem statusWord_getLsbD_done (s : State) : s.statusWord.getLsbD 1 = s.isDone := by
  simp only [State.statusWord, BitVec.getLsbD_append]
  simp

theorem statusWord_getLsbD_err (s : State) : s.statusWord.getLsbD 2 = s.err := by
  simp only [State.statusWord, BitVec.getLsbD_append]
  simp

theorem evt_of_not_done (hp : s.phase ≠ .done) : s.evt = s.err := by
  simp [State.evt, State.isDone, hp]

/-! What moves it. -/

/-- `evt` after a START while BUSY = 0: low when it is accepted, high when it is rejected
(60_exceptions.md R271, R274). -/
theorem startIdle_evt (s : State) :
    ((startIdle s).phase = .framing ∧ (startIdle s).evt = false) ∨
      ((startIdle s).phase = .idle ∧ (startIdle s).errcode ≠ 0 ∧ (startIdle s).evt = true) := by
  rcases startIdle_cases s with ⟨-, h⟩ | ⟨-, -, -, h⟩ | ⟨-, h⟩ <;> rw [h]
  · exact .inr ⟨rfl, by simp, rfl⟩
  · exact .inr ⟨rfl, by simp, rfl⟩
  · exact .inl ⟨rfl, rfl⟩

/-- Of the host's transactions only a START moves `evt`. -/
theorem host_evt {w : Htw} (hd : decodeHtw w = .ok i) (hx : exec i s = .next t) :
    t.evt = s.evt ∨ ∃ g, i = .start g ∧ ((t.phase = .framing ∧ t.evt = false) ∨
      (t.phase = .idle ∧ t.errcode ≠ 0 ∧ t.evt = true)) := by
  rcases host_cases hd hx with ⟨v, rfl⟩ | rfl | ⟨v, -, rfl⟩ | ⟨v, -, rfl⟩ | ⟨g, hi, -, rfl⟩
  case inr.inr.inr.inr => exact .inr ⟨g, hi, startIdle_evt s⟩
  all_goals exact .inl rfl

/-- Of the micro-operations of a BUSY engine only FINISH moves `evt`; FRAME leaves one phase that is not
DONE for another. -/
theorem uop_evt {u : Uop} (hb : s.busy = true) (hd : decodeUop u = .ok i)
    (hx : exec i s = .next t) : t.evt = s.evt ∨ (i = .finish ∧ t.phase = .done) := by
  rcases uop_cases hd hx with ⟨-, rfl⟩ | ⟨x, v, -, -, -, rfl⟩ | ⟨x, -, rfl⟩ | ⟨-, rfl⟩ |
    ⟨x, -, rfl⟩ | ⟨-, rfl⟩ | ⟨-, rfl⟩ | ⟨hi, rfl⟩
  case inl =>
    have hp : s.phase ≠ .done := by rcases (busy_iff s).1 hb with h | h <;> simp [h]
    rw [evt_of_not_done hp]
    exact .inl rfl
  case inr.inr.inr.inr.inr.inr.inr => exact .inr ⟨hi, rfl⟩
  all_goals exact .inl rfl

/-- What a step does to `evt`: nothing, or FINISH and a rejected START leave it high, an accepted START
and reset leave it low. -/
theorem step_evt (h : step s = .next t) :
    t.evt = s.evt ∨
      (t.evt = true ∧ s.busy = true ∧ decodeUop s.seq = .ok .finish ∧ t.phase = .done) ∨
      (t.evt = true ∧ ∃ w rest g, s.turns = .host w :: rest ∧ decodeHtw w = .ok (.start g) ∧
        t.phase = .idle ∧ t.errcode ≠ 0) ∨
      (t.evt = false ∧ ∃ w rest g, s.turns = .host w :: rest ∧ decodeHtw w = .ok (.start g) ∧
        t.phase = .framing) ∨
      (t.evt = false ∧ ∃ rest, s.turns = .rst :: rest) := by
  cases stepBy_of_step h with
  | host w rest i hturns hd hx =>
    rcases host_evt hd hx with he | ⟨g, rfl, ⟨hp, he⟩ | ⟨hp, hcode, he⟩⟩
    · exact .inl he
    · exact .inr (.inr (.inr (.inl ⟨he, w, rest, g, hturns, hd, hp⟩)))
    · exact .inr (.inr (.inl ⟨he, w, rest, g, hturns, hd, hp, hcode⟩))
  | poll rest later _ _ ht => exact .inl (ht ▸ rfl)
  | memWrite addr b rest _ _ ht => exact .inl (ht ▸ rfl)
  | uop rest i _ hb hd hx =>
    rcases uop_evt (s := setTurns rest s) hb hd hx with he | ⟨rfl, hp⟩
    · exact .inl he
    · exact .inr (.inl ⟨evt_of_done hp, hb, hd, hp⟩)
  | wait rest _ _ ht => exact .inl (ht ▸ rfl)
  | rst rest hturns ht => exact .inr (.inr (.inr (.inr ⟨ht ▸ rfl, rest, hturns⟩)))

/-- Settles O41: `evt` is bit 1 or bit 2 of STATUS, and of what moves it two causes leave it high and
two leave it low. -/
theorem evtRule : Obligations.EvtRule := by
  intro s t h
  refine ⟨by rw [statusWord_getLsbD_done, statusWord_getLsbD_err, State.evt], fun hs ht => ?_,
    fun hs ht => ?_⟩
  · rcases step_evt h with he | ⟨-, hfinish⟩ | ⟨-, hrejected⟩ | ⟨he, -⟩ | ⟨he, -⟩
    case inr.inl => exact .inl hfinish
    case inr.inr.inl => exact .inr hrejected
    all_goals simp [hs, ht] at he
  · rcases step_evt h with he | ⟨he, -⟩ | ⟨he, -⟩ | ⟨-, haccepted⟩ | ⟨-, hreset⟩
    case inr.inr.inr.inl => exact .inl haccepted
    case inr.inr.inr.inr => exact .inr hreset
    all_goals simp [hs, ht] at he

end Sys2Proof.Machine
end

section
/-! SUPPORT. Which turns answer a next state: the engine's always, the host's transactions but for a word
with RSV = 1, and its writes inside message memory (60_exceptions.md R270;
44_sequencer_serialization.md R214; 45_host_interface.md R230). -/

namespace Sys2Proof.Machine

variable {s : State}

/-- Under the invariant the engine's turn runs its micro-operation, or waits. -/
theorem Invariant.engineTurn_answers (hI : Invariant s) : ∃ t, engineTurn s = .next t := by
  cases hb : s.busy with
  | false => exact ⟨s, engineTurn_waits hb⟩
  | true =>
    obtain ⟨i, t, hd, hx⟩ := hI.exists_uop hb
    exact ⟨t, (engineTurn_of_decode hb hd).trans hx⟩

theorem exists_decodeHtw {w : Htw} (hrsv : w.getLsbD 38 = false) : ∃ i, decodeHtw w = .ok i := by
  cases hwe : w.getLsbD 39 with
  | false => exact ⟨_, decodeHtw_read hrsv hwe⟩
  | true => exact ⟨_, decodeHtw_write hrsv hwe⟩

theorem hostTurn_answers {w : Htw} (hrsv : w.getLsbD 38 = false) (s : State) :
    ∃ t, hostTurn w s = .next t := by
  obtain ⟨i, hd⟩ := exists_decodeHtw hrsv
  rw [hostTurn_of_decode hd]
  exact host_completes hd s

theorem memWriteTurn_answers {addr : Dword} (h : addr.toNat < s.msgSize) (b : Byte) :
    memWriteTurn addr b s = .next (storeByte addr.toNat b s) := if_pos h

/-- Settles O55, by the next turn: the invariant answers for the engine, and the host's two stops are
the two exceptions. -/
theorem onlyTheHostCanStopIt : Obligations.OnlyTheHostCanStopIt := by
  intro s hI
  match hs : s.turns with
  | [] => exact .inl (step_eq_engineTurn hs ▸ hI.engineTurn_answers)
  | turn :: rest =>
    rw [step_eq_takeTurn hs]
    cases turn with
    | host w =>
      cases hrsv : w.getLsbD 38 with
      | false => exact .inl (hostTurn_answers hrsv _)
      | true => exact .inr (.inl ⟨w, rest, rfl, hrsv⟩)
    | poll => exact .inl ⟨_, pollTurn_eq _⟩
    | memWrite addr b =>
      rcases Nat.lt_or_ge addr.toNat s.msgSize with hin | hout
      · exact .inl ⟨_, memWriteTurn_answers (s := setTurns rest s) hin b⟩
      · exact .inr (.inr ⟨addr, b, rest, rfl, hout⟩)
    | engine => exact .inl (hI.setTurns rest).engineTurn_answers
    | rst => exact .inl ⟨_, rfl⟩

end Sys2Proof.Machine
end

section
/-! SUPPORT. Reset, and the duty of the host toward the message: what its writes of message memory do,
and the final H where it broke the duty (70_reset_and_hazards.md R300, R301, R311, R317). -/

namespace Sys2Proof.Machine

variable {s : State}

/-! The host writes message memory. -/

theorem inMessage_iff (s : State) (addr : Nat) :
    s.inMessage addr = true ↔ s.SRC.toNat ≤ addr ∧ addr < s.SRC.toNat + s.LEN.toNat := by
  simp [State.inMessage]

theorem memWriteTurn_faults {addr : Dword} (h : s.msgSize ≤ addr.toNat) (b : Byte) :
    memWriteTurn addr b s = .fault .msgAddress := if_neg (Nat.not_lt.2 h)

/-- The mark of a disturbed message stays once set, and a message byte written while BUSY sets it. -/
theorem storeByte_msgDisturbed_iff (s : State) (addr : Nat) (b : Byte) :
    (storeByte addr b s).msgDisturbed = true ↔ s.msgDisturbed = true ∨
      (s.busy = true ∧ s.SRC.toNat ≤ addr ∧ addr < s.SRC.toNat + s.LEN.toNat) := by
  rw [storeByte_msgDisturbed, Bool.or_eq_true, Bool.and_eq_true, inMessage_iff]

/-- Settles O51: the turn outside memory faults, the one inside stores its byte, and the rest of memory
reads as before. -/
theorem hostWritesMemory : Obligations.HostWritesMemory := by
  intro s addr b rest hturns hwf
  rw [step_eq_takeTurn hturns]
  refine ⟨fun hout => memWriteTurn_faults (s := setTurns rest s) hout b, fun hin => ?_⟩
  have hnext := memWriteTurn_answers (s := setTurns rest s) hin b
  exact ⟨_, hnext, read_write_same _ b hwf, fun a ha => read_write_other s.mem b ha.symm,
    storeByte_msgDisturbed_iff (setTurns rest s) _ b, rfl⟩

/-! FINISH after the host broke its duty. -/

/-- The words of a free hash state are eight draws in a row. -/
theorem freeHash_getElem (d : Nat) (n : Fin 8) : (freeHash d)[n] = Config.freeWord (d + n.val) := by
  fin_cases n <;> rfl

theorem settleHash_of_disturbed (hd : s.msgDisturbed = true) :
    settleHash s = { s with H := freeHash s.draws, draws := s.draws + 8 } := if_pos hd

theorem exec_finish_disturbed (hd : s.msgDisturbed = true) :
    exec .finish s =
      .next { s with phase := .done, H := freeHash s.draws, draws := s.draws + 8 } := by
  rw [exec, execFinish, settleHash_of_disturbed hd]

/-- Settles O28: H is eight draws, and the counter passes them. -/
theorem finishDisturbed : Obligations.FinishDisturbed := fun s hd =>
  ⟨_, exec_finish_disturbed hd, freeHash_getElem s.draws, rfl⟩

/-! Reset. -/

theorem resetEngine_statusWord (s : State) : (resetEngine s).statusWord = 0 :=
  statusWord_of (resetEngine_phase s) (resetEngine_errcode s)

theorem resetEngine_evt (s : State) : (resetEngine s).evt = false :=
  evt_congr (s2 := State.reset) (resetEngine_phase s) (resetEngine_errcode s)

theorem resetEngine_busy (s : State) : (resetEngine s).busy = false :=
  (busy_eq_false_iff _).2 (.inl (resetEngine_phase s))

/-- Settles O50: whatever the phase was, reset leaves IDLE and errcode 0, which fix what the host sees,
and IDLE has no engine step. -/
theorem resetAtAnyMoment : Obligations.ResetAtAnyMoment := by
  intro s rest hturns
  have hstep : step s = .next (resetEngine (setTurns rest s)) := step_eq_takeTurn hturns
  exact ⟨_, hstep, rfl, rfl, rfl, rfl, resetEngine_statusWord _, resetEngine_evt _,
    digestReg_of_not_done nofun, fun _ => rfl, rfl, rfl, engineTurn_waits (resetEngine_busy _)⟩

end Sys2Proof.Machine
end
